-- ==== Sys2Proof/Machine/Params.lean ====
section
/-! DEFINITION. The parameters the document fixes (R5), under its own names. The widths and counts among them are types:
`TAG_W` is `BitVec 5`, `RSV_W` is `BitVec 3`, `N_LANES` the three fields of `Lane3` and `F3`, `LANE_W` is `BitVec 16`, `FLOAT_FMT`
is `F64`; `LANE_ORDER` is `le16`. -/

namespace Sys2Proof.Param

/-- `FIFO_SUBADDR`: sub-address of the FIFO output register. -/
def fifoSubaddr : BitVec 8 := 0x78

/-- `ENTRY_LEN`: bytes read per transaction. -/
def entryLen : Nat := 7

/-- `PAYLOAD_LEN`: bytes 1 to 6 of the entry. -/
def payloadLen : Nat := 6

/-- `TAG_SHIFT`: right shift that turns the tag byte into the tag code. -/
def tagShift : Nat := 3

/-- `TAG_EMPTY`: code of the Empty entry. -/
def tagEmpty : BitVec 5 := 0x00

/-- `TAG_GYRO_NC`: code of the uncompressed gyroscope entry. -/
def tagGyroNc : BitVec 5 := 0x01

/-- `TAG_ACCEL_NC`: code of the uncompressed accelerometer entry. -/
def tagAccelNc : BitVec 5 := 0x02

/-- `TAG_OTHER_MIN`: lowest pass-through code. -/
def tagOtherMin : BitVec 5 := 0x03

/-- `TAG_MAX_VALID`: highest valid code. -/
def tagMaxValid : BitVec 5 := 0x19

end Sys2Proof.Param
end

