-- ==== Sys2Proof/Word.lean ====
section
/-! DEFINITION. The bit-level types: bytes, binary64 patterns, the six payload bytes. -/

namespace Sys2Proof

/-- A byte, bits 7 (most significant) to 0 (R7). -/
abbrev Byte := BitVec 8

/-- A binary64 value as its 64-bit interchange pattern, `f64bits` (R72). -/
abbrev F64 := BitVec 64

/-- `Payload`: the six bytes `P[0]` to `P[5]` of an entry, `P[j] = B[j+1]` (R8, R24). -/
structure Payload where
  p0 : Byte
  p1 : Byte
  p2 : Byte
  p3 : Byte
  p4 : Byte
  p5 : Byte
  deriving DecidableEq, Repr

/-- The payload's bytes in order. -/
def Payload.bytes (P : Payload) : List Byte := [P.p0, P.p1, P.p2, P.p3, P.p4, P.p5]

end Sys2Proof
end

