-- ==== Sys2Proof/Syntax.lean ====
section
/-! DEFINITION. The instructions: one constructor per row of spec/opcode_table.json, that is one per tag code (R68).
Every constructor carries the three reserved bits of the tag byte (R65) and the six payload bytes (R61), so that an
entry is recovered whole from its instruction; which of them a row reads is its meaning's affair (R132). -/

namespace Sys2Proof

/-- An entry of the FIFO, decoded: the row its tag code selects, with the reserved bits and the payload. -/
inductive Instr where
  | empty (rsv : BitVec 3) (pay : Payload)
  | gyroNc (rsv : BitVec 3) (pay : Payload)
  | accelNc (rsv : BitVec 3) (pay : Payload)
  | other03 (rsv : BitVec 3) (pay : Payload)
  | other04 (rsv : BitVec 3) (pay : Payload)
  | other05 (rsv : BitVec 3) (pay : Payload)
  | other06 (rsv : BitVec 3) (pay : Payload)
  | other07 (rsv : BitVec 3) (pay : Payload)
  | other08 (rsv : BitVec 3) (pay : Payload)
  | other09 (rsv : BitVec 3) (pay : Payload)
  | other0A (rsv : BitVec 3) (pay : Payload)
  | other0B (rsv : BitVec 3) (pay : Payload)
  | other0C (rsv : BitVec 3) (pay : Payload)
  | other0D (rsv : BitVec 3) (pay : Payload)
  | other0E (rsv : BitVec 3) (pay : Payload)
  | other0F (rsv : BitVec 3) (pay : Payload)
  | other10 (rsv : BitVec 3) (pay : Payload)
  | other11 (rsv : BitVec 3) (pay : Payload)
  | other12 (rsv : BitVec 3) (pay : Payload)
  | other13 (rsv : BitVec 3) (pay : Payload)
  | other14 (rsv : BitVec 3) (pay : Payload)
  | other15 (rsv : BitVec 3) (pay : Payload)
  | other16 (rsv : BitVec 3) (pay : Payload)
  | other17 (rsv : BitVec 3) (pay : Payload)
  | other18 (rsv : BitVec 3) (pay : Payload)
  | other19 (rsv : BitVec 3) (pay : Payload)
  | invalid1A (rsv : BitVec 3) (pay : Payload)
  | invalid1B (rsv : BitVec 3) (pay : Payload)
  | invalid1C (rsv : BitVec 3) (pay : Payload)
  | invalid1D (rsv : BitVec 3) (pay : Payload)
  | invalid1E (rsv : BitVec 3) (pay : Payload)
  | invalid1F (rsv : BitVec 3) (pay : Payload)
  deriving DecidableEq, Repr

end Sys2Proof
end

