-- ==== Sys2Proof/WellFormed.lean ====
section
/-! DEFINITION. What makes raw data an entry or an instruction. -/

namespace Sys2Proof

/-- A list of bytes is an entry when it has exactly `ENTRY_LEN` = 7 of them (R45, R60). There is no other check: the
reserved bits and the payload are unconstrained (R65, R70). -/
def entryWellFormed (bs : List Byte) : Bool := bs.length == Param.entryLen

/-- Every term of `Instr` is well-formed: its fields have the widths of the encoding (3 reserved bits, six bytes, R61)
by type, and every value of them is admissible (R65, R70). -/
def Instr.wellFormed (_ : Instr) : Bool := true

end Sys2Proof
end

