-- ==== Sys2Proof/Decode.lean ====
section
/-! DEFINITION. From the bytes of a response to an instruction, and back. The decoder splits the entry (R123), takes
the tag code (R124) and selects the row of the opcode table that the code names (R68). It rejects a response of a
length other than 7, by name, and nothing else: every one of the 2^56 entries has a row (R70). -/

namespace Sys2Proof

/-- Step 3 of a pop (R123): tag byte and payload of a 7-byte entry; no other length splits (R45). -/
def splitEntry (bs : List Byte) : Option (Byte × Payload) :=
  match bs with
  | [b0, b1, b2, b3, b4, b5, b6] => some (b0, ⟨b1, b2, b3, b4, b5, b6⟩)
  | _ => none

/-- Step 4 of a pop (R124, R64): `code = B[0] >> 3`, a logical shift. -/
def tagCode (tag : Byte) : BitVec 5 := (tag >>> Param.tagShift).setWidth 5

/-- The reserved bits `B[0][2:0]` (R63, R65). -/
def reservedBits (tag : Byte) : BitVec 3 := tag.setWidth 3

/-- The row of the opcode table with tag code `code` (R68). The last arm is code 31, the only 5-bit value left. -/
def Instr.ofTagCode (code : BitVec 5) (rsv : BitVec 3) (pay : Payload) : Instr :=
  match code.toNat with
  | 0x00 => .empty rsv pay
  | 0x01 => .gyroNc rsv pay
  | 0x02 => .accelNc rsv pay
  | 0x03 => .other03 rsv pay
  | 0x04 => .other04 rsv pay
  | 0x05 => .other05 rsv pay
  | 0x06 => .other06 rsv pay
  | 0x07 => .other07 rsv pay
  | 0x08 => .other08 rsv pay
  | 0x09 => .other09 rsv pay
  | 0x0A => .other0A rsv pay
  | 0x0B => .other0B rsv pay
  | 0x0C => .other0C rsv pay
  | 0x0D => .other0D rsv pay
  | 0x0E => .other0E rsv pay
  | 0x0F => .other0F rsv pay
  | 0x10 => .other10 rsv pay
  | 0x11 => .other11 rsv pay
  | 0x12 => .other12 rsv pay
  | 0x13 => .other13 rsv pay
  | 0x14 => .other14 rsv pay
  | 0x15 => .other15 rsv pay
  | 0x16 => .other16 rsv pay
  | 0x17 => .other17 rsv pay
  | 0x18 => .other18 rsv pay
  | 0x19 => .other19 rsv pay
  | 0x1A => .invalid1A rsv pay
  | 0x1B => .invalid1B rsv pay
  | 0x1C => .invalid1C rsv pay
  | 0x1D => .invalid1D rsv pay
  | 0x1E => .invalid1E rsv pay
  | _ => .invalid1F rsv pay

/-- What decoding answers: an instruction, or the rejection of a response that is not an entry. -/
inductive Decoded where
  | instr (i : Instr)
  | wrongLength (n : Nat)   -- the number of bytes that came instead of 7 (R45)
  deriving DecidableEq, Repr

/-- The decoder, total on any bytes. -/
def decode (bs : List Byte) : Decoded :=
  match splitEntry bs with
  | some (b0, P) => .instr (Instr.ofTagCode (tagCode b0) (reservedBits b0) P)
  | none => .wrongLength bs.length

/-- The tag code of an instruction's row (R68). -/
def Instr.tagCode (i : Instr) : BitVec 5 :=
  match i with
  | .empty _ _ => 0x00
  | .gyroNc _ _ => 0x01
  | .accelNc _ _ => 0x02
  | .other03 _ _ => 0x03
  | .other04 _ _ => 0x04
  | .other05 _ _ => 0x05
  | .other06 _ _ => 0x06
  | .other07 _ _ => 0x07
  | .other08 _ _ => 0x08
  | .other09 _ _ => 0x09
  | .other0A _ _ => 0x0A
  | .other0B _ _ => 0x0B
  | .other0C _ _ => 0x0C
  | .other0D _ _ => 0x0D
  | .other0E _ _ => 0x0E
  | .other0F _ _ => 0x0F
  | .other10 _ _ => 0x10
  | .other11 _ _ => 0x11
  | .other12 _ _ => 0x12
  | .other13 _ _ => 0x13
  | .other14 _ _ => 0x14
  | .other15 _ _ => 0x15
  | .other16 _ _ => 0x16
  | .other17 _ _ => 0x17
  | .other18 _ _ => 0x18
  | .other19 _ _ => 0x19
  | .invalid1A _ _ => 0x1A
  | .invalid1B _ _ => 0x1B
  | .invalid1C _ _ => 0x1C
  | .invalid1D _ _ => 0x1D
  | .invalid1E _ _ => 0x1E
  | .invalid1F _ _ => 0x1F

/-- The reserved bits an instruction carries (R65). -/
def Instr.rsv (i : Instr) : BitVec 3 :=
  match i with
  | .empty rsv _ => rsv
  | .gyroNc rsv _ => rsv
  | .accelNc rsv _ => rsv
  | .other03 rsv _ => rsv
  | .other04 rsv _ => rsv
  | .other05 rsv _ => rsv
  | .other06 rsv _ => rsv
  | .other07 rsv _ => rsv
  | .other08 rsv _ => rsv
  | .other09 rsv _ => rsv
  | .other0A rsv _ => rsv
  | .other0B rsv _ => rsv
  | .other0C rsv _ => rsv
  | .other0D rsv _ => rsv
  | .other0E rsv _ => rsv
  | .other0F rsv _ => rsv
  | .other10 rsv _ => rsv
  | .other11 rsv _ => rsv
  | .other12 rsv _ => rsv
  | .other13 rsv _ => rsv
  | .other14 rsv _ => rsv
  | .other15 rsv _ => rsv
  | .other16 rsv _ => rsv
  | .other17 rsv _ => rsv
  | .other18 rsv _ => rsv
  | .other19 rsv _ => rsv
  | .invalid1A rsv _ => rsv
  | .invalid1B rsv _ => rsv
  | .invalid1C rsv _ => rsv
  | .invalid1D rsv _ => rsv
  | .invalid1E rsv _ => rsv
  | .invalid1F rsv _ => rsv

/-- The payload an instruction carries (R61). -/
def Instr.payload (i : Instr) : Payload :=
  match i with
  | .empty _ pay => pay
  | .gyroNc _ pay => pay
  | .accelNc _ pay => pay
  | .other03 _ pay => pay
  | .other04 _ pay => pay
  | .other05 _ pay => pay
  | .other06 _ pay => pay
  | .other07 _ pay => pay
  | .other08 _ pay => pay
  | .other09 _ pay => pay
  | .other0A _ pay => pay
  | .other0B _ pay => pay
  | .other0C _ pay => pay
  | .other0D _ pay => pay
  | .other0E _ pay => pay
  | .other0F _ pay => pay
  | .other10 _ pay => pay
  | .other11 _ pay => pay
  | .other12 _ pay => pay
  | .other13 _ pay => pay
  | .other14 _ pay => pay
  | .other15 _ pay => pay
  | .other16 _ pay => pay
  | .other17 _ pay => pay
  | .other18 _ pay => pay
  | .other19 _ pay => pay
  | .invalid1A _ pay => pay
  | .invalid1B _ pay => pay
  | .invalid1C _ pay => pay
  | .invalid1D _ pay => pay
  | .invalid1E _ pay => pay
  | .invalid1F _ pay => pay

/-- A tag byte from its two fields (R63, R77): `B[0] = (code << 3) | r`. -/
def tagByte (code : BitVec 5) (rsv : BitVec 3) : Byte :=
  code.setWidth 8 <<< Param.tagShift ||| rsv.setWidth 8

/-- The encoder: the seven bytes of an instruction's entry (R61). -/
def encode (i : Instr) : List Byte := tagByte i.tagCode i.rsv :: i.payload.bytes

/-- The word view of R62, cut into `n` bytes, byte 0 in the low-order bits: `W[8k+7:8k] = B[k]`. -/
def wordBytes (n w : Nat) : List Byte :=
  match n with
  | 0 => []
  | n + 1 => BitVec.ofNat 8 w :: wordBytes n (w / 256)

/-- The seven bytes of the entry whose low `nbits` bits are those of `w` and whose other bits are 0. -/
def tableBytes (nbits w : Nat) : List Byte := wordBytes Param.entryLen (w % 2 ^ nbits)

/-- What the decoder reads from the opcode table's word `w` of `nbits` bits. -/
def decodeTableWord (nbits w : Nat) : Option Instr :=
  match decode (tableBytes nbits w) with
  | .instr i => some i
  | .wrongLength _ => none

end Sys2Proof
end

