-- ==== Sys2Proof/Machine/Classifier.lean ====
section
/-! DEFINITION. The tag classifier (40_tag_classifier.md). -/

namespace Sys2Proof.Machine

/-- `SensorTag` (R26, R90). -/
inductive SensorTag where
  | empty
  | gyroscopeNC
  | accelerometerNC
  | other (code : BitVec 5)
  deriving DecidableEq, Repr

/-- `Classified` (R90): a sensor tag, or the classification failure. -/
inductive Classified where
  | ok (tag : SensorTag)
  | invalidTag
  deriving DecidableEq, Repr

/-- `CLASSIFY(c)` on the 5 wires `B[0][7:3]` (R90 to R95). -/
def classify (c : BitVec 5) : Classified :=
  if c = Param.tagEmpty then .ok .empty
  else if c = Param.tagGyroNc then .ok .gyroscopeNC
  else if c = Param.tagAccelNc then .ok .accelerometerNC
  else if Param.tagOtherMin ≤ c ∧ c ≤ Param.tagMaxValid then .ok (.other c)
  else .invalidTag

/-- `CLASSIFY` with an 8-bit operand (R96): 32 and above are invalid. The reader never supplies them. -/
def classifyByte (c : Byte) : Classified :=
  if c.toNat < 32 then classify (c.setWidth 5) else .invalidTag

end Sys2Proof.Machine
end

