-- ==== Sys2Proof/Machine/Numerics.lean ====
section
/-! DEFINITION. binary64 (R72) and the two operations of the lane scaler on it: `i2f` (R103) and `fmul` (R104). There are
no floating-point flags and no rounding-mode register (R30). -/

namespace Sys2Proof.Machine

/-- The sign bit `b[63]`. -/
def f64Neg (b : F64) : Bool := b.msb

/-- The biased exponent field `b[62:52]`. -/
def f64Exp (b : F64) : Nat := (b.extractLsb' 52 11).toNat

/-- The fraction field `b[51:0]`. -/
def f64Frac (b : F64) : Nat := (b.extractLsb' 0 52).toNat

def f64IsNaN (b : F64) : Bool := f64Exp b == 2047 && f64Frac b != 0

def f64IsInf (b : F64) : Bool := f64Exp b == 2047 && f64Frac b == 0

def f64IsZero (b : F64) : Bool := f64Exp b == 0 && f64Frac b == 0

/-- The integer significand of a finite pattern: `f`, or `2^52 + f` when normal (R72). -/
def f64Sig (b : F64) : Nat := if f64Exp b = 0 then f64Frac b else 2 ^ 52 + f64Frac b

/-- The exponent of the significand's unit, counted from the least unit `2^-1074` (R72): a finite pattern denotes
`± f64Sig × 2^(f64Pow - 1074)`. -/
def f64Pow (b : F64) : Nat := f64Exp b - 1

/-- A finite pattern: a zero, a subnormal or a normal number. -/
def f64IsFinite (b : F64) : Bool := f64Exp b != 2047

/-- The magnitude of a finite pattern, in units of `2^-1074`: an integer (R72). -/
def f64Mag (b : F64) : Nat := f64Sig b <<< f64Pow b

/-- `2^n`, under a name of its own so that no tactic writes the numbers below out. -/
@[irreducible] def twoTo (n : Nat) : Nat := 2 ^ n

/-- 1.0 in units of `2^-1074`. -/
def f64UnitsPerOne : Nat := twoTo 1074

/-- The magnitude half way between the largest finite number and `2^1024`, in units of `2^-1074`, that is
`(2^54 - 1) × 2^2044`: from here on the nearest value, on an exponent range unbounded above, has magnitude `2^1024` or more
(R104). -/
def f64OverflowMag : Nat := 0x3FFFFFFFFFFFFF * twoTo 2044

/-- The pattern with sign `neg` and the other 63 bits `mag`. -/
def f64Of (neg : Bool) (mag : Nat) : F64 := BitVec.ofNat 64 ((if neg then 2 ^ 63 else 0) + mag)

/-- The NaN drawn with the free bits `raw` (R111): `raw` itself where it is a NaN, else `raw` with the exponent field and
the quiet bit set; so a NaN, and any NaN at all. -/
def nanOf (raw : F64) : F64 := if f64IsNaN raw then raw else raw ||| 0x7FF8000000000000

/-- `n / d` rounded to the nearest integer, ties to even. -/
def roundHalfEven (n d : Nat) : Nat :=
  if 2 * (n % d) < d then n / d
  else if d < 2 * (n % d) then n / d + 1
  else n / d + n / d % 2

/-- The magnitude bits of the binary64 number nearest to `m × 2^(q - 2148)`, ties to even, for `m ≠ 0` (R104): the unit of
the result is `2^(e - 1074)`, with `e` the least that leaves at most 53 bits before the point (`1126 = 1074 + 52`); the
significand, carry included, is added to the exponent field; from `2^1024` on it is the infinity,
whose magnitude bits are `2047 × 2^52 = 0x7FF0000000000000`. -/
def roundProduct (m q : Nat) : Nat :=
  let e := Nat.log2 m + q - 1126
  let u := 1074 + e
  min (e * 2 ^ 52 + roundHalfEven (m <<< (q - u)) (1 <<< (u - q))) 0x7FF0000000000000

/-- `fmul(a, b)` (R104), with `raw` the free bits of a NaN result (R111). -/
def fmul (raw a b : F64) : F64 :=
  let sg := f64Neg a ^^ f64Neg b
  if f64IsNaN a || f64IsNaN b then nanOf raw
  else if (f64IsInf a && f64IsZero b) || (f64IsZero a && f64IsInf b) then nanOf raw
  else if f64IsInf a || f64IsInf b then f64Of sg 0x7FF0000000000000
  else if f64IsZero a || f64IsZero b then f64Of sg 0
  else f64Of sg (roundProduct (f64Sig a * f64Sig b) (f64Pow a + f64Pow b))

/-- `i2f(n)` (R103), by the rule's bit pattern: exact for every lane value. -/
def i2f (n : Int) : F64 :=
  if n = 0 then 0
  else
    let m := n.natAbs
    let k := Nat.log2 m
    f64Of (decide (n < 0)) ((1023 + k) * 2 ^ 52 + (m - 1 <<< k) <<< (52 - k))

end Sys2Proof.Machine
end

