-- ==== Sys2Proof/Config.lean ====
section
/-! DEFINITION. What the spec leaves to an implementation, and the free values: opaque constants, of which no
proof can know more than the type. The parameters whose values the document fixes are in Machine/Params.lean. -/

namespace Sys2Proof.Config

/-- `DEV_ADDR`, the device address carried on REQ (R6, 92 D19). OPEN in every source: its width and format are not
given either, so it is a plain number. No rule reads it. -/
opaque devAddr : Nat

/-- `ERR_W`, the width of a transport error on the result channel (R6, R73, 92 D20). OPEN. -/
opaque errW : Nat

/-- The free bits of a NaN result (R111, 92 D10, 93 U1): a draw per operation (first argument, the draw counter) and
lane (second argument). `Machine.nanOf` makes a NaN of it, and every NaN can arise. -/
opaque freeNan : Nat → Nat → BitVec 64

/-- The value of a result-channel field outside its "defined when" condition (R73, 93 U9): a draw per operation
(`n`) and field (`k`), of the field's width (`w`). -/
opaque freeField : (w n k : Nat) → BitVec w

end Sys2Proof.Config
end

