-- ==== Sys2Proof/Machine/State.lean ====
section
/-! DEFINITION. The state of the machine as plain data: the block's phase, and what the model holds of the world around
it (the inputs still to come and the messages that have passed). -/

namespace Sys2Proof.Machine

/-- `TErr`, a transport error: opaque, carried unchanged (R6, R43, 92 D20). It has `ERR_W` bits, an open parameter. -/
abbrev TErr := BitVec Config.errW

/-- `F3`: three binary64 values, X, Y, Z (R8, R27). -/
structure F3 where
  x : F64
  y : F64
  z : F64
  deriving DecidableEq, Repr

/-- `Value`, the decoded result of a pop (R28). -/
inductive Value where
  | empty
  | gyro (v : F3)
  | accel (v : F3)
  | other (code : BitVec 5) (raw : Payload)
  deriving DecidableEq, Repr

/-- The two error outcomes of a pop (R28, R140). -/
inductive PopError where
  | transport (e : TErr)
  | invalidTag
  deriving DecidableEq, Repr

/-- `Result`: what one pop delivers on RES (R28). -/
inductive Result where
  | ok (v : Value)
  | err (e : PopError)
  deriving DecidableEq, Repr

/-- The Transport's answer on RSP: bytes or an error (R43). The list has free length, so that an answer of the wrong
length can be written down and faults (R45, R143). -/
inductive Response where
  | ok (bytes : List Byte)
  | err (e : TErr)
  deriving DecidableEq, Repr

/-- The request on REQ: device address, sub-address, number of bytes (R42, R75). -/
structure Request where
  devAddr : Nat
  subAddr : Byte
  len : Nat
  deriving DecidableEq, Repr

/-- `Phase` (R22): the block's only state, with the two scales captured when the operation began. -/
inductive Phase where
  | idle
  | wait (gs acs : F64)
  deriving DecidableEq, Repr

/-- What the host and the environment do to the block, one at a time (R184): the entries of the script. -/
inductive Event where
  /-- HOST offers `pop gs as` on CMD. -/
  | cmd (gs acs : F64)
  /-- ENV answers the outstanding request on RSP. -/
  | rsp (r : Response)
  /-- ENV answers a request that a reset has abandoned (R172). -/
  | late (r : Response)
  /-- The reset event (R170). -/
  | reset
  /-- Another agent uses the Transport (R175). -/
  | foreign
  deriving DecidableEq, Repr

/-- What an observer of the block sees pass: a message on one of the four channels CMD, REQ, RSP, RES (R75), a late
answer that was dropped, or a reset (R172). -/
inductive Message where
  | cmd (gs acs : F64)
  | req (q : Request)
  | rsp (r : Response)
  | res (x : Result)
  | late (r : Response)
  | reset
  deriving DecidableEq, Repr

/-- The state of the machine. `phase` is the block's own and its only state (R22). The other four are the model's: the
block keeps nothing between operations (R21) and no result depends on them but for the free NaN bits. -/
structure State where
  /-- The phase of the operation in progress. -/
  phase : Phase
  /-- How many requests resets have abandoned whose late answer has not come (R134, R172). -/
  abandoned : Nat
  /-- The draw counter: the index of the next operation's free NaN bits (R111). -/
  draws : Nat
  /-- The script: what HOST and ENV will do, next first (R57). -/
  events : List Event
  /-- The messages that have passed, newest first; nothing in the block reads them (R135). -/
  trace : List Message
  deriving DecidableEq, Repr

/-- What stops the machine. -/
inductive Fault where
  /-- Raised by the arrival of a successful response of other than 7 bytes, the Transport's breach of its contract
  (R45, R143). Safe: no claim can be proved of a run in which it occurs. -/
  | lengthViolation
  deriving DecidableEq, Repr

/-- What the machine has no meaning for. -/
inductive Refusal where
  /-- Raised by an arm of `exec` whose instruction has no meaning yet; no arm does. Safe. -/
  | notModelled (mnemonic : String)
  /-- Raised by a response, or the completion of an entry, when no request is outstanding: "cannot occur" (R134; 95 V10
  row 9). Safe. -/
  | noOperation
  /-- Raised by a late answer when no abandoned request is unanswered: no such answer exists (R134). Safe. -/
  | noAbandonedRequest
  /-- Raised by another agent's use of the Transport during an operation: "a model must refuse such a run" (R175, 93 U8).
  Unsafe as an assumption on the host (the premise ExclusiveTransport), as R175 says. -/
  | foreignAccess
  deriving DecidableEq, Repr

/-- The machine right after reset (R171, R33): IDLE, nothing captured, nothing in flight, nothing delivered; with no input
scripted, and the draw counter at 0. -/
def State.reset : State :=
  { phase := .idle, abandoned := 0, draws := 0, events := [], trace := [] }

end Sys2Proof.Machine
end

