-- ==== Sys2Proof/Machine/Operands.lean ====
section
/-! DEFINITION. The sample decoder (41_sample_decoder.md): the payload as three little-endian signed lanes, scaled. -/

namespace Sys2Proof.Machine

/-- `Lane3`: the lane values X, Y, Z, each in [-32768, 32767] (R8, R25). -/
structure Lane3 where
  x : Int
  y : Int
  z : Int
  deriving DecidableEq, Repr

/-- `le16(lo, hi) = (hi << 8) | lo` (R8, R66). -/
def le16 (lo hi : Byte) : BitVec 16 := hi.setWidth 16 <<< 8 ||| lo.setWidth 16

/-- `s16(u)`: the two's complement value (R8, R102). -/
def s16 (u : BitVec 16) : Int := if u.toNat < 32768 then u.toNat else (u.toNat : Int) - 65536

/-- `UNPACK16(P)` (R101). -/
def unpack16 (P : Payload) : Lane3 :=
  { x := s16 (le16 P.p0 P.p1), y := s16 (le16 P.p2 P.p3), z := s16 (le16 P.p4 P.p5) }

/-- The bytes of three lane values (R77): `u = n mod 65536`, low byte first. The inverse of `unpack16` on lanes. -/
def pack16 (L : Lane3) : Payload :=
  let lo (n : Int) : Byte := (BitVec.ofInt 16 n).setWidth 8
  let hi (n : Int) : Byte := (BitVec.ofInt 16 n >>> 8).setWidth 8
  ⟨lo L.x, hi L.x, lo L.y, hi L.y, lo L.z, hi L.z⟩

/-- `SCALE_LANE(l, s) = fmul(i2f(l), s)` (R105), with the free bits of a NaN result. -/
def scaleLane (raw : F64) (l : Int) (s : F64) : F64 := fmul raw (i2f l) s

/-- `DECODE3(P, s)` (R100) as operation number `n`: three lanes, one scale; each lane's NaN has free bits of its own. -/
def decode3 (n : Nat) (P : Payload) (s : F64) : F3 :=
  let L := unpack16 P
  { x := scaleLane (Config.freeNan n 0) L.x s
    y := scaleLane (Config.freeNan n 1) L.y s
    z := scaleLane (Config.freeNan n 2) L.z s }

end Sys2Proof.Machine
end

