-- ==== Sys2Proof/Machine/Ops.lean ====
section
/-! DEFINITION. The named operations of the FIFO reader (42_fifo_reader.md, 60_exceptions.md, 70_reset_and_hazards.md):
issuing a request, delivering a result, raising an error, completing an entry, reset, late answers. -/

namespace Sys2Proof.Machine

/-- The one request of every operation, `MemRead(0x78, 7)` (R42, R121). -/
def request : Request :=
  { devAddr := Config.devAddr, subAddr := Param.fifoSubaddr, len := Param.entryLen }

/-- The script goes on with `es`. -/
def State.continueWith (es : List Event) (s : State) : State := { s with events := es }

/-- The message `m` passes. -/
def State.observe (m : Message) (s : State) : State := { s with trace := m :: s.trace }

/-- The step `issue` (R134): the scales are captured (R178) and the request goes out. -/
def issue (gs acs : F64) (s : State) : State :=
  { s with phase := .wait gs acs, trace := .req request :: .cmd gs acs :: s.trace }

/-- The end of an operation (R134, R135): the result goes out on RES and the block is IDLE and holds nothing. -/
def deliver (x : Result) (s : State) : State :=
  { s with phase := .idle, draws := s.draws + 1, trace := .res x :: s.trace }

/-- `raise`: an error ends the operation (R147). It is delivered like a value; nothing is saved, control goes nowhere, and
there is no return from it (R149). -/
def raiseError (e : PopError) (s : State) : State := deliver (.err e) s

/-- Steps 5 and 6 of a pop (R125, R126): the classification of the tag code alone decides what the entry yields (R127 to
R131). `n` numbers the operation, for the free bits of a NaN. -/
def entryResult (code : BitVec 5) (P : Payload) (gs acs : F64) (n : Nat) : Result :=
  match classify code with
  | .ok .empty => .ok .empty
  | .ok .gyroscopeNC => .ok (.gyro (decode3 n P gs))
  | .ok .accelerometerNC => .ok (.accel (decode3 n P acs))
  | .ok (.other c) => .ok (.other c P)
  | .invalidTag => .err .invalidTag

/-- `pop_result` (R132) of a response: none where the response breaks the Transport's contract (R143). -/
def popResult (r : Response) (gs acs : F64) (n : Nat) : Option Result :=
  match r with
  | .err e => some (.err (.transport e))
  | .ok bs =>
    match splitEntry bs with
    | some (b0, P) => some (entryResult (tagCode b0) P gs acs n)
    | none => none

/-- The step `complete` for an entry with tag code `code` and payload `P` (R134): enabled only in WAIT. -/
def completeEntry (code : BitVec 5) (P : Payload) (s : State) : Host.Outcome State Fault Refusal :=
  match s.phase with
  | .idle => .refused .noOperation
  | .wait gs acs =>
    match entryResult code P gs acs s.draws with
    | .ok v => .next (deliver (.ok v) s)
    | .err e => .next (raiseError e s)

/-- A command offered on CMD (R134, R174): issued in IDLE; in WAIT it is not accepted and has no effect. -/
def offerCommand (gs acs : F64) (s : State) : State :=
  match s.phase with
  | .idle => issue gs acs s
  | .wait _ _ => s

/-- The reset event (R170, R172): IDLE; the operation in progress, if any, is abandoned and delivers nothing. -/
def hardReset (s : State) : State :=
  match s.phase with
  | .idle => s.observe .reset
  | .wait _ _ => { s with phase := .idle, abandoned := s.abandoned + 1, trace := .reset :: s.trace }

/-- The late answer to a request that a reset abandoned is discarded without being decoded (R172). -/
def dropLate (r : Response) (s : State) : Host.Outcome State Fault Refusal :=
  match s.abandoned with
  | 0 => .refused .noAbandonedRequest
  | k + 1 => .next { s with abandoned := k, trace := .late r :: s.trace }

/-- Another agent uses the Transport: nothing to the block in IDLE, refused during an operation (R32, R175). -/
def foreignAccess (s : State) : Host.Outcome State Fault Refusal :=
  match s.phase with
  | .idle => .next s
  | .wait _ _ => .refused .foreignAccess

end Sys2Proof.Machine
end

