-- ==== Sys2Proof/Machine/Accel.lean ====
section
/-! DEFINITION. The ACCEL_NC entry kind. -/

namespace Sys2Proof.Machine

/-- ACCEL_NC, tag code 0x02 (R129): `return Ok(Accel(DECODE3(P, as)))`. `gs` is not read; the reserved bits are ignored. -/
def execAccelNc (_rsv : BitVec 3) (pay : Payload) (s : State) : Host.Outcome State Fault Refusal :=
  completeEntry Param.tagAccelNc pay s

end Sys2Proof.Machine
end

