-- ==== Sys2Proof/Machine/Empty.lean ====
section
/-! DEFINITION. The EMPTY entry kind. -/

namespace Sys2Proof.Machine

/-- EMPTY, tag code 0x00 (R127): `return Ok(Empty)`. Payload, reserved bits and both scales are ignored. -/
def execEmpty (_rsv : BitVec 3) (pay : Payload) (s : State) : Host.Outcome State Fault Refusal :=
  completeEntry Param.tagEmpty pay s

end Sys2Proof.Machine
end

