-- ==== Sys2Proof/Machine/Gyro.lean ====
section
/-! DEFINITION. The GYRO_NC entry kind. -/

namespace Sys2Proof.Machine

/-- GYRO_NC, tag code 0x01 (R128): `return Ok(Gyro(DECODE3(P, gs)))`. `as` is not read; the reserved bits are ignored. -/
def execGyroNc (_rsv : BitVec 3) (pay : Payload) (s : State) : Host.Outcome State Fault Refusal :=
  completeEntry Param.tagGyroNc pay s

end Sys2Proof.Machine
end

