-- ==== Sys2Proof/Machine/Invalid.lean ====
section
/-! DEFINITION. The INVALID entry kind (R131): the six tag codes above 0x19, each ending the pop with the error InvalidTag.
The payload and both scales are ignored. -/

namespace Sys2Proof.Machine

/-- INVALID_1A, tag code 0x1A (R131): `raise InvalidTag`. -/
def execInvalid1A (_rsv : BitVec 3) (pay : Payload) (s : State) : Host.Outcome State Fault Refusal :=
  completeEntry 0x1A#5 pay s

/-- INVALID_1B, tag code 0x1B (R131): `raise InvalidTag`. -/
def execInvalid1B (_rsv : BitVec 3) (pay : Payload) (s : State) : Host.Outcome State Fault Refusal :=
  completeEntry 0x1B#5 pay s

/-- INVALID_1C, tag code 0x1C (R131): `raise InvalidTag`. -/
def execInvalid1C (_rsv : BitVec 3) (pay : Payload) (s : State) : Host.Outcome State Fault Refusal :=
  completeEntry 0x1C#5 pay s

/-- INVALID_1D, tag code 0x1D (R131): `raise InvalidTag`. -/
def execInvalid1D (_rsv : BitVec 3) (pay : Payload) (s : State) : Host.Outcome State Fault Refusal :=
  completeEntry 0x1D#5 pay s

/-- INVALID_1E, tag code 0x1E (R131): `raise InvalidTag`. -/
def execInvalid1E (_rsv : BitVec 3) (pay : Payload) (s : State) : Host.Outcome State Fault Refusal :=
  completeEntry 0x1E#5 pay s

/-- INVALID_1F, tag code 0x1F (R131): `raise InvalidTag`. -/
def execInvalid1F (_rsv : BitVec 3) (pay : Payload) (s : State) : Host.Outcome State Fault Refusal :=
  completeEntry 0x1F#5 pay s

end Sys2Proof.Machine
end

