-- ==== Sys2Proof/Machine/Other.lean ====
section
/-! DEFINITION. The OTHER entry kind (R130): the 23 pass-through codes, each delivering its code and the six bytes unchanged.
Neither scale is read and the reserved bits are dropped. -/

namespace Sys2Proof.Machine

/-- OTHER_03, tag code 0x03 (R130): `return Ok(Other(0x03, P))`. -/
def execOther03 (_rsv : BitVec 3) (pay : Payload) (s : State) : Host.Outcome State Fault Refusal :=
  completeEntry 0x03#5 pay s

/-- OTHER_04, tag code 0x04 (R130): `return Ok(Other(0x04, P))`. -/
def execOther04 (_rsv : BitVec 3) (pay : Payload) (s : State) : Host.Outcome State Fault Refusal :=
  completeEntry 0x04#5 pay s

/-- OTHER_05, tag code 0x05 (R130): `return Ok(Other(0x05, P))`. -/
def execOther05 (_rsv : BitVec 3) (pay : Payload) (s : State) : Host.Outcome State Fault Refusal :=
  completeEntry 0x05#5 pay s

/-- OTHER_06, tag code 0x06 (R130): `return Ok(Other(0x06, P))`. -/
def execOther06 (_rsv : BitVec 3) (pay : Payload) (s : State) : Host.Outcome State Fault Refusal :=
  completeEntry 0x06#5 pay s

/-- OTHER_07, tag code 0x07 (R130): `return Ok(Other(0x07, P))`. -/
def execOther07 (_rsv : BitVec 3) (pay : Payload) (s : State) : Host.Outcome State Fault Refusal :=
  completeEntry 0x07#5 pay s

/-- OTHER_08, tag code 0x08 (R130): `return Ok(Other(0x08, P))`. -/
def execOther08 (_rsv : BitVec 3) (pay : Payload) (s : State) : Host.Outcome State Fault Refusal :=
  completeEntry 0x08#5 pay s

/-- OTHER_09, tag code 0x09 (R130): `return Ok(Other(0x09, P))`. -/
def execOther09 (_rsv : BitVec 3) (pay : Payload) (s : State) : Host.Outcome State Fault Refusal :=
  completeEntry 0x09#5 pay s

/-- OTHER_0A, tag code 0x0A (R130): `return Ok(Other(0x0A, P))`. -/
def execOther0A (_rsv : BitVec 3) (pay : Payload) (s : State) : Host.Outcome State Fault Refusal :=
  completeEntry 0x0A#5 pay s

/-- OTHER_0B, tag code 0x0B (R130): `return Ok(Other(0x0B, P))`. -/
def execOther0B (_rsv : BitVec 3) (pay : Payload) (s : State) : Host.Outcome State Fault Refusal :=
  completeEntry 0x0B#5 pay s

/-- OTHER_0C, tag code 0x0C (R130): `return Ok(Other(0x0C, P))`. -/
def execOther0C (_rsv : BitVec 3) (pay : Payload) (s : State) : Host.Outcome State Fault Refusal :=
  completeEntry 0x0C#5 pay s

/-- OTHER_0D, tag code 0x0D (R130): `return Ok(Other(0x0D, P))`. -/
def execOther0D (_rsv : BitVec 3) (pay : Payload) (s : State) : Host.Outcome State Fault Refusal :=
  completeEntry 0x0D#5 pay s

/-- OTHER_0E, tag code 0x0E (R130): `return Ok(Other(0x0E, P))`. -/
def execOther0E (_rsv : BitVec 3) (pay : Payload) (s : State) : Host.Outcome State Fault Refusal :=
  completeEntry 0x0E#5 pay s

/-- OTHER_0F, tag code 0x0F (R130): `return Ok(Other(0x0F, P))`. -/
def execOther0F (_rsv : BitVec 3) (pay : Payload) (s : State) : Host.Outcome State Fault Refusal :=
  completeEntry 0x0F#5 pay s

/-- OTHER_10, tag code 0x10 (R130): `return Ok(Other(0x10, P))`. -/
def execOther10 (_rsv : BitVec 3) (pay : Payload) (s : State) : Host.Outcome State Fault Refusal :=
  completeEntry 0x10#5 pay s

/-- OTHER_11, tag code 0x11 (R130): `return Ok(Other(0x11, P))`. -/
def execOther11 (_rsv : BitVec 3) (pay : Payload) (s : State) : Host.Outcome State Fault Refusal :=
  completeEntry 0x11#5 pay s

/-- OTHER_12, tag code 0x12 (R130): `return Ok(Other(0x12, P))`. -/
def execOther12 (_rsv : BitVec 3) (pay : Payload) (s : State) : Host.Outcome State Fault Refusal :=
  completeEntry 0x12#5 pay s

/-- OTHER_13, tag code 0x13 (R130): `return Ok(Other(0x13, P))`. -/
def execOther13 (_rsv : BitVec 3) (pay : Payload) (s : State) : Host.Outcome State Fault Refusal :=
  completeEntry 0x13#5 pay s

/-- OTHER_14, tag code 0x14 (R130): `return Ok(Other(0x14, P))`. -/
def execOther14 (_rsv : BitVec 3) (pay : Payload) (s : State) : Host.Outcome State Fault Refusal :=
  completeEntry 0x14#5 pay s

/-- OTHER_15, tag code 0x15 (R130): `return Ok(Other(0x15, P))`. -/
def execOther15 (_rsv : BitVec 3) (pay : Payload) (s : State) : Host.Outcome State Fault Refusal :=
  completeEntry 0x15#5 pay s

/-- OTHER_16, tag code 0x16 (R130): `return Ok(Other(0x16, P))`. -/
def execOther16 (_rsv : BitVec 3) (pay : Payload) (s : State) : Host.Outcome State Fault Refusal :=
  completeEntry 0x16#5 pay s

/-- OTHER_17, tag code 0x17 (R130): `return Ok(Other(0x17, P))`. -/
def execOther17 (_rsv : BitVec 3) (pay : Payload) (s : State) : Host.Outcome State Fault Refusal :=
  completeEntry 0x17#5 pay s

/-- OTHER_18, tag code 0x18 (R130): `return Ok(Other(0x18, P))`. -/
def execOther18 (_rsv : BitVec 3) (pay : Payload) (s : State) : Host.Outcome State Fault Refusal :=
  completeEntry 0x18#5 pay s

/-- OTHER_19, tag code 0x19 (R130): `return Ok(Other(0x19, P))`. -/
def execOther19 (_rsv : BitVec 3) (pay : Payload) (s : State) : Host.Outcome State Fault Refusal :=
  completeEntry 0x19#5 pay s

end Sys2Proof.Machine
end

