-- ==== Sys2Proof/Machine/Dispatch.lean ====
section
/-! DEFINITION. Step 6 of a pop (R126): the decoded entry to its meaning, one arm per row of the opcode table. -/

namespace Sys2Proof.Machine

/-- Run the decoded entry `i` in state `s`. -/
def exec (i : Instr) (s : State) : Host.Outcome State Fault Refusal :=
  match i with
  | .empty rsv pay => Sys2Proof.Machine.execEmpty rsv pay s
  | .gyroNc rsv pay => Sys2Proof.Machine.execGyroNc rsv pay s
  | .accelNc rsv pay => Sys2Proof.Machine.execAccelNc rsv pay s
  | .other03 rsv pay => Sys2Proof.Machine.execOther03 rsv pay s
  | .other04 rsv pay => Sys2Proof.Machine.execOther04 rsv pay s
  | .other05 rsv pay => Sys2Proof.Machine.execOther05 rsv pay s
  | .other06 rsv pay => Sys2Proof.Machine.execOther06 rsv pay s
  | .other07 rsv pay => Sys2Proof.Machine.execOther07 rsv pay s
  | .other08 rsv pay => Sys2Proof.Machine.execOther08 rsv pay s
  | .other09 rsv pay => Sys2Proof.Machine.execOther09 rsv pay s
  | .other0A rsv pay => Sys2Proof.Machine.execOther0A rsv pay s
  | .other0B rsv pay => Sys2Proof.Machine.execOther0B rsv pay s
  | .other0C rsv pay => Sys2Proof.Machine.execOther0C rsv pay s
  | .other0D rsv pay => Sys2Proof.Machine.execOther0D rsv pay s
  | .other0E rsv pay => Sys2Proof.Machine.execOther0E rsv pay s
  | .other0F rsv pay => Sys2Proof.Machine.execOther0F rsv pay s
  | .other10 rsv pay => Sys2Proof.Machine.execOther10 rsv pay s
  | .other11 rsv pay => Sys2Proof.Machine.execOther11 rsv pay s
  | .other12 rsv pay => Sys2Proof.Machine.execOther12 rsv pay s
  | .other13 rsv pay => Sys2Proof.Machine.execOther13 rsv pay s
  | .other14 rsv pay => Sys2Proof.Machine.execOther14 rsv pay s
  | .other15 rsv pay => Sys2Proof.Machine.execOther15 rsv pay s
  | .other16 rsv pay => Sys2Proof.Machine.execOther16 rsv pay s
  | .other17 rsv pay => Sys2Proof.Machine.execOther17 rsv pay s
  | .other18 rsv pay => Sys2Proof.Machine.execOther18 rsv pay s
  | .other19 rsv pay => Sys2Proof.Machine.execOther19 rsv pay s
  | .invalid1A rsv pay => Sys2Proof.Machine.execInvalid1A rsv pay s
  | .invalid1B rsv pay => Sys2Proof.Machine.execInvalid1B rsv pay s
  | .invalid1C rsv pay => Sys2Proof.Machine.execInvalid1C rsv pay s
  | .invalid1D rsv pay => Sys2Proof.Machine.execInvalid1D rsv pay s
  | .invalid1E rsv pay => Sys2Proof.Machine.execInvalid1E rsv pay s
  | .invalid1F rsv pay => Sys2Proof.Machine.execInvalid1F rsv pay s

end Sys2Proof.Machine
end

