-- ==== Sys2Proof/Machine/Events.lean ====
section
/-! DEFINITION. What each event of the script does: the steps of R134 and R170, and the cases between them. -/

namespace Sys2Proof.Machine

/-- The response to the outstanding request (R122 to R126, R134), tested in the order of R146: the transport error, the
length, then the entry. -/
def respond (r : Response) (s : State) : Host.Outcome State Fault Refusal :=
  match s.phase with
  | .idle => .refused .noOperation
  | .wait _ _ =>
    match r with
    | .err e => .next (raiseError (.transport e) (s.observe (.rsp r)))
    | .ok bs =>
      match decode bs with
      | .wrongLength _ => .fault .lengthViolation
      | .instr i => exec i (s.observe (.rsp r))

/-- One event. -/
def takeEvent (e : Event) (s : State) : Host.Outcome State Fault Refusal :=
  match e with
  | .cmd gs acs => .next (offerCommand gs acs s)
  | .rsp r => respond r s
  | .late r => dropLate r s
  | .reset => .next (hardReset s)
  | .foreign => foreignAccess s

/-- One step: the next event of the script. With none left the machine stays as it is: IDLE does nothing until a command
comes (R170), and WAIT without an answer hangs (R179). -/
def advance (s : State) : Host.Outcome State Fault Refusal :=
  match s.events with
  | [] => .next s
  | e :: es => takeEvent e (s.continueWith es)

/-- The pattern of 1.0, the scale of the operation that `placeEntry` opens in IDLE. -/
def oneF64 : F64 := 0x3FF0000000000000

/-- `s` about to receive the entry `bs`: in an operation (one opened with scales 1.0 where `s` is IDLE), with that entry as
the next answer. -/
def placeEntry (bs : List Byte) (s : State) : State :=
  let s := offerCommand oneF64 oneF64 s
  s.continueWith (.rsp (.ok bs) :: s.events)

end Sys2Proof.Machine
end

