-- ==== Sys2Proof/Machine/Assembly.lean ====
section
/-! DEFINITION. The entry mnemonics of R77: one line per response that ENV will give, and its assembly into bytes. The
trailing parts of a line that R77 makes optional are written out here (their default is 0). -/

namespace Sys2Proof.Machine

/-- A line of R77, its numbers as written: lanes as integers, codes, bytes and reserved bits as numbers. -/
inductive Line where
  | empty (rsv : Nat) (pay : List Nat)
  | gyroNc (x y z : Int) (rsv : Nat)
  | accelNc (x y z : Int) (rsv : Nat)
  | other (c : Nat) (pay : List Nat) (rsv : Nat)
  | invalid (c : Nat) (rsv : Nat) (pay : List Nat)
  | fail (e : TErr)
  deriving DecidableEq, Repr

/-- A lane value (R25). -/
def laneInRange (n : Int) : Bool := decide (-32768 ≤ n) && decide (n ≤ 32767)

/-- Reserved bits and payload as numbers of their widths. -/
def lineFieldsFit (rsv : Nat) (pay : List Nat) : Bool :=
  decide (rsv < 8) && pay.length == Param.payloadLen && pay.all fun b => decide (b < 256)

/-- A line whose numbers are in the ranges of R77: lanes of 16 bits, a pass-through code 3 to 25, an invalid code 26 to 31,
six bytes, three reserved bits. -/
def Line.wellFormed (l : Line) : Bool :=
  match l with
  | .empty rsv pay => lineFieldsFit rsv pay
  | .gyroNc x y z rsv => laneInRange x && laneInRange y && laneInRange z && decide (rsv < 8)
  | .accelNc x y z rsv => laneInRange x && laneInRange y && laneInRange z && decide (rsv < 8)
  | .other c pay rsv => decide (3 ≤ c) && decide (c ≤ 25) && lineFieldsFit rsv pay
  | .invalid c rsv pay => decide (26 ≤ c) && decide (c ≤ 31) && lineFieldsFit rsv pay
  | .fail _ => true

/-- Assembly of a line (R77): `B[0] = (code << 3) | r`, then the payload. -/
def assemble (l : Line) : Response :=
  let entry (code rsv : Nat) (pay : List Byte) : Response :=
    .ok (tagByte (BitVec.ofNat 5 code) (BitVec.ofNat 3 rsv) :: pay)
  let bytes (pay : List Nat) : List Byte := pay.map (BitVec.ofNat 8)
  match l with
  | .empty rsv pay => entry 0 rsv (bytes pay)
  | .gyroNc x y z rsv => entry 1 rsv (pack16 ⟨x, y, z⟩).bytes
  | .accelNc x y z rsv => entry 2 rsv (pack16 ⟨x, y, z⟩).bytes
  | .other c pay rsv => entry c rsv (bytes pay)
  | .invalid c rsv pay => entry c rsv (bytes pay)
  | .fail e => .err e

end Sys2Proof.Machine
end

