-- ==== Sys2Proof/Machine/Channel.lean ====
section
/-! DEFINITION. The bit-level result channel (R73) and the error causes on it (R144): a view of `Result`, which the machine
itself uses directly, as R73 allows. -/

namespace Sys2Proof.Machine

/-- The fields of the RES channel (R73). -/
structure ResWord where
  kind : BitVec 3
  code : BitVec 5
  raw : BitVec 48
  v0 : F64
  v1 : F64
  v2 : F64
  terr : TErr
  deriving DecidableEq, Repr

/-- `raw[8j+7:8j] = P[j]` (R73). -/
def packRaw (P : Payload) : BitVec 48 := P.p5 ++ P.p4 ++ P.p3 ++ P.p2 ++ P.p1 ++ P.p0

/-- The payload whose bytes stand in `raw` (R73). -/
def unpackRaw (w : BitVec 48) : Payload :=
  ⟨w.extractLsb' 0 8, w.extractLsb' 8 8, w.extractLsb' 16 8, w.extractLsb' 24 8, w.extractLsb' 32 8, w.extractLsb' 40 8⟩

/-- All fields of the word of operation `n` but the kind at free values (93 U9). -/
def freeResWord (n : Nat) (kind : BitVec 3) : ResWord :=
  { kind := kind
    code := Config.freeField 5 n 0
    raw := Config.freeField 48 n 1
    v0 := Config.freeField 64 n 2
    v1 := Config.freeField 64 n 3
    v2 := Config.freeField 64 n 4
    terr := Config.freeField Config.errW n 5 }

/-- The word of operation `n`'s result on RES (R73): each field where it is defined, free elsewhere. -/
def resultWord (n : Nat) (x : Result) : ResWord :=
  match x with
  | .ok .empty => freeResWord n 0
  | .ok (.gyro v) => { freeResWord n 1 with v0 := v.x, v1 := v.y, v2 := v.z }
  | .ok (.accel v) => { freeResWord n 2 with v0 := v.x, v1 := v.y, v2 := v.z }
  | .ok (.other c P) => { freeResWord n 3 with code := c, raw := packRaw P }
  | .err (.transport e) => { freeResWord n 4 with terr := e }
  | .err .invalidTag => freeResWord n 5

/-- The result a word of RES stands for, reading no field outside its "defined when" condition; kinds 6 and 7 stand for
none (R73). -/
def readResWord (w : ResWord) : Option Result :=
  match w.kind.toNat with
  | 0 => some (.ok .empty)
  | 1 => some (.ok (.gyro ⟨w.v0, w.v1, w.v2⟩))
  | 2 => some (.ok (.accel ⟨w.v0, w.v1, w.v2⟩))
  | 3 => some (.ok (.other w.code (unpackRaw w.raw)))
  | 4 => some (.err (.transport w.terr))
  | 5 => some (.err .invalidTag)
  | _ => none

end Sys2Proof.Machine
end

