-- ==== Sys2Proof/Safety.lean ====
section
/-! DEFINITION. What counts as a safe run: the premises of R185 as predicates on a state and its script, and the history
that the step relation of R134 allows. -/

namespace Sys2Proof.Machine

/-- `n` steps, ending early at the first fault or refusal: the host's `Core.run` of this machine (`runSteps_eq_core_run`). -/
def runSteps (n : Nat) (s : State) : Host.Outcome State Fault Refusal :=
  match n with
  | 0 => .next s
  | n + 1 =>
    match step s with
    | .next s' => runSteps n s'
    | .fault f => .fault f
    | .refused f => .refused f

/-- `StartIdle` (R185): IDLE, no request outstanding or abandoned, no message yet. -/
abbrev startIdle (s : State) : Prop := s.phase = .idle ∧ s.abandoned = 0 ∧ s.trace = []

/-- `TransportContract` for one response (R45, R185): an error, or exactly 7 bytes. -/
def keepsContract (r : Response) : Bool :=
  match r with
  | .err _ => true
  | .ok bs => bs.length == Param.entryLen

/-- A response, as against every other event. -/
def isResponse (e : Event) : Bool :=
  match e with
  | .rsp _ => true
  | _ => false

/-- An event that can end an operation (R179): a response to its request, or a reset. -/
def endsWait (e : Event) : Bool :=
  match e with
  | .rsp _ => true
  | .reset => true
  | _ => false

/-- A command offered on CMD. -/
def isCommand (e : Event) : Bool :=
  match e with
  | .cmd _ _ => true
  | _ => false

/-- The late answer to an abandoned request. -/
def isLate (e : Event) : Bool :=
  match e with
  | .late _ => true
  | _ => false

/-- Another agent's use of the Transport. -/
def isForeign (e : Event) : Bool :=
  match e with
  | .foreign => true
  | _ => false

/-- Whether an operation is in progress after the event `e`, from whether one was before it (R134, R170). -/
def waitingAfter (waiting : Bool) (e : Event) : Bool :=
  match e with
  | .cmd _ _ => true
  | .rsp _ => false
  | .late _ => waiting
  | .reset => false
  | .foreign => waiting

/-! The premises of R185 on a script, each under its own name, for a block that is (`waiting`) or is not in an operation.
`Numerics` is the definition of `fmul`. -/

/-- `TransportContract`: every successful answer to a request has exactly 7 bytes. A late answer is dropped undecoded, so
nothing is asked of it (R172). -/
def transportContract (es : List Event) : Bool :=
  es.all fun e =>
    match e with
    | .rsp r => keepsContract r
    | _ => true

/-- `ExclusiveTransport` (R175): no other agent uses the Transport during an operation. -/
def exclusiveTransport (waiting : Bool) (es : List Event) : Bool :=
  match es with
  | [] => true
  | e :: es => !(waiting && isForeign e) && exclusiveTransport (waitingAfter waiting e) es

/-- `OnePopAtATime` (R174): the host offers no command during an operation. -/
def onePopAtATime (waiting : Bool) (es : List Event) : Bool :=
  match es with
  | [] => true
  | e :: es => !(waiting && isCommand e) && onePopAtATime (waitingAfter waiting e) es

/-- `TransportAnswers`: the request of every operation is answered before the script ends, but for a request that a reset
has abandoned, which R134 lets the reset remove (notes/assumptions/18.md). A premise of termination alone (R182). -/
def transportAnswers (waiting : Bool) (es : List Event) : Bool :=
  match es with
  | [] => !waiting
  | e :: es => transportAnswers (waitingAfter waiting e) es

/-- What makes a script one of this block's environment at all (R134): an answer comes only to the outstanding request, a
late answer only to one of the `k` abandoned requests still unanswered. -/
def answersFollowRequests (waiting : Bool) (k : Nat) (es : List Event) : Bool :=
  match es with
  | [] => true
  | .cmd _ _ :: es => answersFollowRequests true k es
  | .rsp _ :: es => waiting && answersFollowRequests false k es
  | .late _ :: es => k != 0 && answersFollowRequests waiting (k - 1) es
  | .reset :: es => answersFollowRequests false (if waiting then k + 1 else k) es
  | .foreign :: es => answersFollowRequests waiting k es

/-- A script on which the machine meets no fault and no refusal: one of this block's environment that keeps
TransportContract and ExclusiveTransport. Nothing is asked of the content of a response (R185), of when commands come, or
that requests are answered. -/
def admissible (waiting : Bool) (k : Nat) (es : List Event) : Bool :=
  answersFollowRequests waiting k es && transportContract es && exclusiveTransport waiting es

/-- An operation is in progress. -/
def Phase.waiting (p : Phase) : Bool :=
  match p with
  | .idle => false
  | .wait _ _ => true

/-- The results that a trace has delivered on RES, newest first. -/
def resultsOf (ms : List Message) : List Result :=
  ms.filterMap fun m =>
    match m with
    | .res x => some x
    | _ => none

/-- The requests that a trace has sent on REQ, newest first. -/
def requestsOf (ms : List Message) : List Request :=
  ms.filterMap fun m =>
    match m with
    | .req q => some q
    | _ => none

/-- How far the messages of one operation have come (R75: CMD, REQ, RSP, RES in this order in time). -/
inductive Stage where
  | idle
  | asked (gs acs : F64)
  | waiting (gs acs : F64)
  | answered (gs acs : F64) (r : Response)
  deriving DecidableEq, Repr

/-- What a history of messages leaves: the stage, the abandoned requests unanswered, the operations completed. -/
structure Replayed where
  stage : Stage
  abandoned : Nat
  draws : Nat
  deriving DecidableEq, Repr

/-- One message after a history, where the step relation allows it (R134, R172): a command in IDLE, then the one request,
then a response, then the result that R132 gives to it and to the command's scales; a reset or a late answer between steps. -/
def replayMessage (m : Message) (h : Replayed) : Option Replayed :=
  match m with
  | .cmd gs acs =>
    match h.stage with
    | .idle => some { h with stage := .asked gs acs }
    | _ => none
  | .req q =>
    match h.stage with
    | .asked gs acs => if q = request then some { h with stage := .waiting gs acs } else none
    | _ => none
  | .rsp r =>
    match h.stage with
    | .waiting gs acs => some { h with stage := .answered gs acs r }
    | _ => none
  | .res x =>
    match h.stage with
    | .answered gs acs r =>
      if popResult r gs acs h.draws = some x then some { h with stage := .idle, draws := h.draws + 1 } else none
    | _ => none
  | .late _ =>
    match h.stage, h.abandoned with
    | .idle, k + 1 => some { h with abandoned := k }
    | .waiting _ _, k + 1 => some { h with abandoned := k }
    | _, _ => none
  | .reset =>
    match h.stage with
    | .idle => some h
    | .waiting _ _ => some { h with stage := .idle, abandoned := h.abandoned + 1 }
    | _ => none

/-- The replay of a trace (newest first) from reset; none where some message was not allowed. -/
def replay (ms : List Message) : Option Replayed :=
  match ms with
  | [] => some { stage := .idle, abandoned := 0, draws := 0 }
  | m :: ms => (replay ms).bind (replayMessage m)

/-- The stage a phase is. -/
def Phase.stage (p : Phase) : Stage :=
  match p with
  | .idle => .idle
  | .wait gs acs => .waiting gs acs

/-- The history of `s` is one that the step relation allows, and it leaves exactly what `s` holds. -/
abbrev State.historyLegal (s : State) : Prop :=
  replay s.trace = some { stage := s.phase.stage, abandoned := s.abandoned, draws := s.draws }

/-- Two binary64 results equal but for the bits of a NaN (R132). -/
def sameF64 (a b : F64) : Bool := a == b || (f64IsNaN a && f64IsNaN b)

/-- Two triples equal but for the bits of NaN components. -/
def sameF3 (v w : F3) : Bool := sameF64 v.x w.x && sameF64 v.y w.y && sameF64 v.z w.z

/-- Two results equal but for the bits of NaN components (R132). -/
def sameResult (x y : Result) : Bool :=
  match x, y with
  | .ok (.gyro v), .ok (.gyro w) => sameF3 v w
  | .ok (.accel v), .ok (.accel w) => sameF3 v w
  | _, _ => x == y

/-- A result of the shapes R28 allows: the code of `Other` lies in [3, 25]. -/
def resultWellFormed (x : Result) : Bool :=
  match x with
  | .ok (.other c _) => decide (Param.tagOtherMin ≤ c) && decide (c ≤ Param.tagMaxValid)
  | _ => true

end Sys2Proof.Machine
end

