-- ==== Sys2Proof/Certificates/Slice0/Obligations.lean ====
section
/-! DEFINITION. The statements for the provers, from the spec's numbered rules. -/

open Sys2Proof Sys2Proof.Machine

/-- The tag bytes of code `code` (`8*code` to `8*code + 7`, R64) decode to the row `row`, which carries the reserved bits and
the payload. -/
def Sys2Proof.Statements.selects (code : Nat) (row : BitVec 3 → Payload → Instr) : Prop :=
  ∀ (b0 : Byte) (P : Payload), 8 * code ≤ b0.toNat → b0.toNat ≤ 8 * code + 7 →
    decode (b0 :: P.bytes) = .instr (row (b0.setWidth 3) P)

/-- In WAIT the row `row` ends the operation with the result `x gs acs draws P`, for every reserved value, payload, scales and
state: IDLE again, one message on RES, nothing else changed (the draw counter, the model's own, has moved on). -/
def Sys2Proof.Statements.yields (row : BitVec 3 → Payload → Instr) (x : F64 → F64 → Nat → Payload → Result) : Prop :=
  ∀ (rsv : BitVec 3) (P : Payload) (s : State) (gs acs : F64), s.phase = .wait gs acs →
    exec (row rsv P) s =
      .next { s with phase := .idle, draws := s.draws + 1, trace := .res (x gs acs s.draws P) :: s.trace }

/-- The three products of R128 and R129: X, Y, Z from bytes 1 to 6 of the entry, little-endian and signed, each times the
one scale `sc`. The NaN bits of each lane are free (R111). -/
def Sys2Proof.Statements.scaled (n : Nat) (P : Payload) (sc : F64) : F3 :=
  { x := fmul (Config.freeNan n 0) (i2f (s16 (le16 P.p0 P.p1))) sc
    y := fmul (Config.freeNan n 1) (i2f (s16 (le16 P.p2 P.p3))) sc
    z := fmul (Config.freeNan n 2) (i2f (s16 (le16 P.p4 P.p5))) sc }

/-- The row of a pass-through code: its tag bytes, and the result of R130. -/
def Sys2Proof.Statements.passThrough (code : Nat) (row : BitVec 3 → Payload → Instr) : Prop :=
  Statements.selects code row ∧ Statements.yields row fun _ _ _ P => .ok (.other (BitVec.ofNat 5 code) P)

/-- The row of an invalid code: its tag bytes, and the error of R131. -/
def Sys2Proof.Statements.rejected (code : Nat) (row : BitVec 3 → Payload → Instr) : Prop :=
  Statements.selects code row ∧ Statements.yields row fun _ _ _ _ => .err .invalidTag

/-- The distance of two integers. -/
def Sys2Proof.Statements.distance (a b : Nat) : Nat := (a - b) + (b - a)

/-! ### Encodings -/

/-- A few entries written out byte by byte from R61 and R63 decode to what they stand for (95 S5, V8 rows 4, 10, 15, 13). -/
def Obligations.WrittenEntriesDecode : Prop :=
  decode [0x08, 0x00, 0x01, 0x00, 0x02, 0x00, 0x04] = .instr (.gyroNc 0 ⟨0x00, 0x01, 0x00, 0x02, 0x00, 0x04⟩) ∧
  decode [0x10, 0xFF, 0xFF, 0x00, 0x80, 0xFF, 0x7F] = .instr (.accelNc 0 ⟨0xFF, 0xFF, 0x00, 0x80, 0xFF, 0x7F⟩) ∧
  decode [0x18, 0x00, 0x01, 0x02, 0x03, 0x04, 0x05] = .instr (.other03 0 ⟨0x00, 0x01, 0x02, 0x03, 0x04, 0x05⟩) ∧
  decode [0xD8, 0x00, 0x00, 0x00, 0x00, 0x00, 0x00] = .instr (.invalid1B 0 ⟨0, 0, 0, 0, 0, 0⟩) ∧
  decode [0x07, 0xFF, 0xFF, 0xFF, 0xFF, 0xFF, 0xFF] = .instr (.empty 7 ⟨0xFF, 0xFF, 0xFF, 0xFF, 0xFF, 0xFF⟩)

/-- Decoding the encoding of any instruction gives it back, at every value of its operands (R61, R63). -/
def Obligations.DecodeOfEncode : Prop :=
  ∀ i : Instr, decode (encode i) = .instr i

/-- No bit of an entry is lost by decoding: an instruction that was decoded encodes to the very bytes, laid out as R61 and
R63 say. That an instruction carries the bits its meaning ignores is the model's choice (notes/assumptions/17.md): the
block itself discards the reserved bits (R124). -/
def Obligations.EncodeOfDecode : Prop :=
  ∀ (bs : List Byte) (i : Instr), decode bs = .instr i → encode i = bs

/-- Every list of seven bytes is an entry of some row, and a list of any other length is rejected (R45, R60, R70). -/
def Obligations.OnlyLengthIsRejected : Prop :=
  ∀ bs : List Byte,
    (bs.length = 7 → ∃ i, decode bs = .instr i) ∧ (bs.length ≠ 7 → decode bs = .wrongLength bs.length)

/-- The row an entry decodes to is that of its tag code, `B[0]` shifted right by 3, whatever the reserved bits and the payload
(R64). That the instruction carries the reserved bits and the payload as they stand in the entry (R61, R63), also where its
meaning ignores them, is the model's choice (notes/assumptions/17.md). -/
def Obligations.TagCodeSelectsRow : Prop :=
  ∀ (b0 : Byte) (P : Payload), ∃ i, decode (b0 :: P.bytes) = .instr i ∧
    i.tagCode.toNat = b0.toNat / 8 ∧ i.rsv.toNat = b0.toNat % 8 ∧ i.payload = P

/-! ### The tag classifier -/

/-- The five arms of CLASSIFY (R91 to R95), by tag code and by the tag bytes that carry it. -/
def Obligations.ClassifierArms : Prop :=
  (∀ c : BitVec 5,
    (c.toNat = 0 → classify c = .ok .empty) ∧
    (c.toNat = 1 → classify c = .ok .gyroscopeNC) ∧
    (c.toNat = 2 → classify c = .ok .accelerometerNC) ∧
    (3 ≤ c.toNat → c.toNat ≤ 25 → classify c = .ok (.other c)) ∧
    (26 ≤ c.toNat → classify c = .invalidTag)) ∧
  (∀ b : Byte,
    (b.toNat ≤ 0x07 → classify (tagCode b) = .ok .empty) ∧
    (0x08 ≤ b.toNat → b.toNat ≤ 0x0F → classify (tagCode b) = .ok .gyroscopeNC) ∧
    (0x10 ≤ b.toNat → b.toNat ≤ 0x17 → classify (tagCode b) = .ok .accelerometerNC) ∧
    (0x18 ≤ b.toNat → b.toNat ≤ 0xCF → classify (tagCode b) = .ok (.other (BitVec.ofNat 5 (b.toNat / 8)))) ∧
    (0xD0 ≤ b.toNat → classify (tagCode b) = .invalidTag))

/-- The 8-bit operand of R96: 32 to 255 are invalid, and below that it is the 5-bit classifier. -/
def Obligations.WideOperandClassifies : Prop :=
  ∀ c : Byte,
    (32 ≤ c.toNat → classifyByte c = .invalidTag) ∧ (c.toNat < 32 → classifyByte c = classify (c.setWidth 5))

/-! ### The sample decoder -/

/-- UNPACK16 (R101): each lane is its little-endian pair of bytes read as a two's complement integer, and the unpacker is a
bijection between payloads and lane triples, with `pack16` as its inverse. -/
def Obligations.UnpackerIsBijection : Prop :=
  (∀ P : Payload,
    unpack16 P = { x := s16 (le16 P.p0 P.p1), y := s16 (le16 P.p2 P.p3), z := s16 (le16 P.p4 P.p5) } ∧
    pack16 (unpack16 P) = P ∧
    laneInRange (unpack16 P).x ∧ laneInRange (unpack16 P).y ∧ laneInRange (unpack16 P).z) ∧
  (∀ lo hi : Byte, (s16 (le16 lo hi) : Int) =
    if hi.toNat < 128 then ((lo.toNat + 256 * hi.toNat : Nat) : Int) else ((lo.toNat + 256 * hi.toNat : Nat) : Int) - 65536) ∧
  (∀ L : Lane3, laneInRange L.x → laneInRange L.y → laneInRange L.z → unpack16 (pack16 L) = L)

/-- I2F (R103): every lane value converts to the binary64 number equal to it (its magnitude in units of `2^-1074` is
`|n| × 2^1074`), with the bit pattern of the rule; zero converts to positive zero. -/
def Obligations.IntegerConversionIsExact : Prop :=
  i2f 0 = 0x0000000000000000 ∧
  ∀ n : Int, -32768 ≤ n → n ≤ 32767 →
    f64IsFinite (i2f n) ∧ f64Neg (i2f n) = decide (n < 0) ∧ f64Mag (i2f n) = n.natAbs * f64UnitsPerOne ∧
    ∀ k : Nat, 2 ^ k ≤ n.natAbs → n.natAbs < 2 ^ (k + 1) →
      f64Exp (i2f n) = 1023 + k ∧ f64Frac (i2f n) = (n.natAbs - 2 ^ k) * 2 ^ (52 - k)

/-- FMUL (R104), the rows with a NaN, an infinity or a zero. -/
def Obligations.MultiplySpecialOperands : Prop :=
  ∀ raw a b : F64,
    (f64IsNaN a ∨ f64IsNaN b → f64IsNaN (fmul raw a b)) ∧
    (f64IsInf a ∧ f64IsZero b ∨ f64IsZero a ∧ f64IsInf b → f64IsNaN (fmul raw a b)) ∧
    (f64IsInf a ∧ ¬ f64IsNaN b ∧ ¬ f64IsZero b ∨ f64IsInf b ∧ ¬ f64IsNaN a ∧ ¬ f64IsZero a →
      f64IsInf (fmul raw a b) ∧ f64Neg (fmul raw a b) = (f64Neg a ^^ f64Neg b)) ∧
    (f64IsZero a ∧ f64IsFinite b ∨ f64IsFinite a ∧ f64IsZero b →
      f64IsZero (fmul raw a b) ∧ f64Neg (fmul raw a b) = (f64Neg a ^^ f64Neg b))

/-- FMUL (R104), the row of two finite non-zero operands. With magnitudes in units of `2^-1074` (so the exact product in units
of `2^-2148`): the sign is the product's; below the point half way between the largest finite number and `2^1024` the
result is finite, no finite number is nearer to the exact product, and where another is as near the result's fraction field
is even; from that point on it is the infinity; and it is a zero exactly when the exact product is at most `2^-1075`. -/
def Obligations.MultiplyRoundsToNearestEven : Prop :=
  ∀ raw a b : F64, f64IsFinite a → f64IsFinite b → ¬ f64IsZero a → ¬ f64IsZero b →
    f64Neg (fmul raw a b) = (f64Neg a ^^ f64Neg b) ∧
    (f64Mag a * f64Mag b < f64OverflowMag * f64UnitsPerOne →
      f64IsFinite (fmul raw a b) ∧
      ∀ c : F64, f64IsFinite c →
        Statements.distance (f64Mag (fmul raw a b) * f64UnitsPerOne) (f64Mag a * f64Mag b) ≤
          Statements.distance (f64Mag c * f64UnitsPerOne) (f64Mag a * f64Mag b) ∧
        (Statements.distance (f64Mag (fmul raw a b) * f64UnitsPerOne) (f64Mag a * f64Mag b) =
            Statements.distance (f64Mag c * f64UnitsPerOne) (f64Mag a * f64Mag b) →
          f64Mag c = f64Mag (fmul raw a b) ∨ f64Frac (fmul raw a b) % 2 = 0)) ∧
    (f64OverflowMag * f64UnitsPerOne ≤ f64Mag a * f64Mag b → f64IsInf (fmul raw a b)) ∧
    (f64IsZero (fmul raw a b) ↔ 2 * (f64Mag a * f64Mag b) ≤ f64UnitsPerOne)

/-- No rounding where none is needed (R104; the spec's own inference R112): a product that a finite binary64 number equals is
delivered exactly, subnormal or not. -/
def Obligations.ExactProductsAreDelivered : Prop :=
  ∀ raw a b c : F64, f64IsFinite a → f64IsFinite b → f64IsFinite c → ¬ f64IsZero a → ¬ f64IsZero b →
    f64Mag c * f64UnitsPerOne = f64Mag a * f64Mag b → f64Neg c = (f64Neg a ^^ f64Neg b) → fmul raw a b = c

/-- A NaN result is a NaN and every NaN is possible (R104, R111, 93 U1): where the operands give a NaN, `fmul` answers a NaN
for all free bits, and every NaN for some. The draw made of the free bits is likewise always a NaN and can be any. -/
def Obligations.NanDrawIsAnyNan : Prop :=
  (∀ a b : F64, f64IsNaN a ∨ f64IsNaN b ∨ f64IsInf a ∧ f64IsZero b ∨ f64IsZero a ∧ f64IsInf b →
    (∀ raw : F64, f64IsNaN (fmul raw a b)) ∧ ∀ z : F64, f64IsNaN z → ∃ raw : F64, fmul raw a b = z) ∧
  (∀ raw : F64, f64IsNaN (nanOf raw)) ∧ ∀ z : F64, f64IsNaN z → ∃ raw : F64, nanOf raw = z

/-- Zero lanes and zero scales (the spec's own inference R108, from R103 and R104). -/
def Obligations.ZeroLaneAndZeroScale : Prop :=
  ∀ raw s : F64,
    (f64IsFinite s → f64Neg s = false → scaleLane raw 0 s = 0x0000000000000000) ∧
    (f64IsFinite s → f64Neg s = true → scaleLane raw 0 s = 0x8000000000000000) ∧
    (¬ f64IsFinite s → f64IsNaN (scaleLane raw 0 s)) ∧
    ∀ l : Int, -32768 ≤ l → l ≤ 32767 → l ≠ 0 →
      scaleLane raw l 0x0000000000000000 = (if l < 0 then 0x8000000000000000 else 0x0000000000000000) ∧
      scaleLane raw l 0x8000000000000000 = (if l < 0 then 0x0000000000000000 else 0x8000000000000000)

/-- Infinite and NaN scales (the spec's own inference R109, from R104): computed, not rejected. -/
def Obligations.InfiniteAndNanScale : Prop :=
  ∀ (raw s : F64) (l : Int), -32768 ≤ l → l ≤ 32767 →
    (f64IsNaN s → f64IsNaN (scaleLane raw l s)) ∧
    (0 < l → scaleLane raw l 0x7FF0000000000000 = 0x7FF0000000000000) ∧
    (l < 0 → scaleLane raw l 0x7FF0000000000000 = 0xFFF0000000000000) ∧
    (0 < l → scaleLane raw l 0xFFF0000000000000 = 0xFFF0000000000000) ∧
    (l < 0 → scaleLane raw l 0xFFF0000000000000 = 0x7FF0000000000000) ∧
    (l = 0 → f64IsNaN (scaleLane raw l 0x7FF0000000000000) ∧ f64IsNaN (scaleLane raw l 0xFFF0000000000000))

/-- A non-zero lane times a finite non-zero scale is never rounded to zero (the spec's own inference R110, from R104). -/
def Obligations.ScalingNeverVanishes : Prop :=
  ∀ (raw s : F64) (l : Int), -32768 ≤ l → l ≤ 32767 → l ≠ 0 → f64IsFinite s → ¬ f64IsZero s →
    ¬ f64IsZero (scaleLane raw l s)

/-- Scaling by 1.0 is the conversion alone (the spec's own inference R112, from R103 and R104). -/
def Obligations.ScalingByOneIsExact : Prop :=
  ∀ (raw : F64) (l : Int), -32768 ≤ l → l ≤ 32767 → scaleLane raw l 0x3FF0000000000000 = i2f l

/-- The counter-example to scale-linearity (90 C5; 95 V7 row 3): lane 3, scale 0.1, factor 10.0. -/
def Obligations.LinearityFails : Prop :=
  ∀ raw : F64,
    fmul raw (scaleLane raw 3 0x3FB999999999999A) 0x4024000000000000 = 0x4008000000000001 ∧
    scaleLane raw 3 (fmul raw 0x3FB999999999999A 0x4024000000000000) = 0x4008000000000000

/-! ### The five entry kinds -/

/-- EMPTY (R127): tag bytes 0x00 to 0x07; the result is `Ok(Empty)`, whatever payload, reserved bits and scales hold. -/
def Obligations.EmptyCompletes : Prop :=
  Statements.selects 0x00 .empty ∧ Statements.yields .empty fun _ _ _ _ => .ok .empty

/-- GYRO_NC (R128): tag bytes 0x08 to 0x0F; the result is `Ok(Gyro)` of the three lanes times `gs`; `as` is not read. -/
def Obligations.GyroCompletes : Prop :=
  Statements.selects 0x01 .gyroNc ∧ Statements.yields .gyroNc fun gs _ n P => .ok (.gyro (Statements.scaled n P gs))

/-- ACCEL_NC (R129): tag bytes 0x10 to 0x17; the result is `Ok(Accel)` of the three lanes times `as`; `gs` is not read. -/
def Obligations.AccelCompletes : Prop :=
  Statements.selects 0x02 .accelNc ∧ Statements.yields .accelNc fun _ acs n P => .ok (.accel (Statements.scaled n P acs))

/-- OTHER (R130), all 23 codes: tag bytes 0x18 to 0xCF; the result is the code and the six bytes unchanged. -/
def Obligations.OtherCompletes : Prop :=
  Statements.passThrough 0x03 .other03 ∧
  Statements.passThrough 0x04 .other04 ∧
  Statements.passThrough 0x05 .other05 ∧
  Statements.passThrough 0x06 .other06 ∧
  Statements.passThrough 0x07 .other07 ∧
  Statements.passThrough 0x08 .other08 ∧
  Statements.passThrough 0x09 .other09 ∧
  Statements.passThrough 0x0A .other0A ∧
  Statements.passThrough 0x0B .other0B ∧
  Statements.passThrough 0x0C .other0C ∧
  Statements.passThrough 0x0D .other0D ∧
  Statements.passThrough 0x0E .other0E ∧
  Statements.passThrough 0x0F .other0F ∧
  Statements.passThrough 0x10 .other10 ∧
  Statements.passThrough 0x11 .other11 ∧
  Statements.passThrough 0x12 .other12 ∧
  Statements.passThrough 0x13 .other13 ∧
  Statements.passThrough 0x14 .other14 ∧
  Statements.passThrough 0x15 .other15 ∧
  Statements.passThrough 0x16 .other16 ∧
  Statements.passThrough 0x17 .other17 ∧
  Statements.passThrough 0x18 .other18 ∧
  Statements.passThrough 0x19 .other19

/-- INVALID (R131), all 6 codes: tag bytes 0xD0 to 0xFF; the result is the error InvalidTag and no Value. -/
def Obligations.InvalidCompletes : Prop :=
  Statements.rejected 0x1A .invalid1A ∧
  Statements.rejected 0x1B .invalid1B ∧
  Statements.rejected 0x1C .invalid1C ∧
  Statements.rejected 0x1D .invalid1D ∧
  Statements.rejected 0x1E .invalid1E ∧
  Statements.rejected 0x1F .invalid1F

/-! ### The step relation -/

/-- A step in WAIT whose next event is a response of bytes that decode to `i` runs `i`, after taking the event off the script
and with the response as the last message (R134). -/
def Obligations.StepRunsDecodedEntry : Prop :=
  ∀ (s : State) (gs acs : F64) (bs : List Byte) (es : List Event) (i : Instr),
    s.phase = .wait gs acs → s.events = .rsp (.ok bs) :: es → decode bs = .instr i →
    step s = exec i { s with events := es, trace := .rsp (.ok bs) :: s.trace }

/-- The step `issue` (R121, R134): a command in IDLE captures its scales and sends the one request, sub-address 0x78, 7 bytes. -/
def Obligations.IssueSendsTheRequest : Prop :=
  ∀ (s : State) (gs acs : F64) (es : List Event), s.phase = .idle → s.events = .cmd gs acs :: es →
    step s = .next { s with
      phase := .wait gs acs, events := es,
      trace := .req { devAddr := Config.devAddr, subAddr := 0x78, len := 7 } :: .cmd gs acs :: s.trace }

/-- A command offered in WAIT is not accepted: scales, request and results are as they were (R134, R174). -/
def Obligations.CommandDuringOperationHasNoEffect : Prop :=
  ∀ (s : State) (gs acs g a : F64) (es : List Event), s.phase = .wait g a → s.events = .cmd gs acs :: es →
    step s = .next { s with events := es }

/-- A transport error is the result, verbatim, and nothing else is done (R122). -/
def Obligations.TransportErrorVerbatim : Prop :=
  ∀ (s : State) (gs acs : F64) (e : TErr) (es : List Event), s.phase = .wait gs acs → s.events = .rsp (.err e) :: es →
    step s = .next { s with
      phase := .idle, draws := s.draws + 1, events := es,
      trace := .res (.err (.transport e)) :: .rsp (.err e) :: s.trace }

/-- A successful response of other than 7 bytes faults, whatever its first byte is (R45, R143, R146). -/
def Obligations.WrongLengthFaults : Prop :=
  ∀ (s : State) (gs acs : F64) (bs : List Byte) (es : List Event),
    s.phase = .wait gs acs → s.events = .rsp (.ok bs) :: es → bs.length ≠ 7 → step s = .fault .lengthViolation

/-- What has no meaning is refused by name: an entry or a response with no request outstanding (95 V10 row 9), a late answer
that no request awaits (R134), a foreign access during an operation (R175). -/
def Obligations.ImpossibleEventsRefused : Prop :=
  ∀ (s : State) (es : List Event),
    (∀ i, s.phase = .idle → exec i s = .refused .noOperation) ∧
    (∀ r, s.phase = .idle → s.events = .rsp r :: es → step s = .refused .noOperation) ∧
    (∀ r, s.abandoned = 0 → s.events = .late r :: es → step s = .refused .noAbandonedRequest) ∧
    (∀ gs acs, s.phase = .wait gs acs → s.events = .foreign :: es → step s = .refused .foreignAccess)

/-- Reset (R170, R172): IDLE from any phase; an operation in progress is abandoned and delivers nothing. -/
def Obligations.ResetAbandonsOperation : Prop :=
  ∀ (s : State) (es : List Event), s.events = .reset :: es →
    (s.phase = .idle → step s = .next { s with events := es, trace := .reset :: s.trace }) ∧
    (∀ gs acs, s.phase = .wait gs acs →
      step s = .next { s with phase := .idle, abandoned := s.abandoned + 1, events := es, trace := .reset :: s.trace })

/-- The late answer to an abandoned request is dropped in any phase, whatever it holds: no result, no other effect (R172). -/
def Obligations.LateAnswerIsDropped : Prop :=
  ∀ (s : State) (r : Response) (es : List Event), 0 < s.abandoned → s.events = .late r :: es →
    step s = .next { s with abandoned := s.abandoned - 1, events := es, trace := .late r :: s.trace }

/-- A pop hangs without an answer (R179): with nothing scripted WAIT stays as it is; no step leaves WAIT but on a response to
the request or a reset; and over any number of steps without one of these the phase and the results stay the same. -/
def Obligations.WaitHasNoEscape : Prop :=
  (∀ (s : State) (gs acs : F64), s.phase = .wait gs acs → s.events = [] → step s = .next s) ∧
  (∀ (s s' : State) (gs acs : F64), s.phase = .wait gs acs → step s = .next s' → s'.phase ≠ .wait gs acs →
    ∃ e es, s.events = e :: es ∧ endsWait e) ∧
  (∀ (n : Nat) (s t : State) (gs acs : F64), s.phase = .wait gs acs → (∀ e ∈ s.events, ¬ endsWait e) →
    runSteps n s = .next t →
    t.phase = .wait gs acs ∧ resultsOf t.trace = resultsOf s.trace)

/-- IDLE does nothing until the host issues a command (R170, R134): with nothing scripted a step leaves the state as it is;
another agent's use of the Transport, which the block does not own in IDLE (R32), changes nothing (the model's choice,
notes/assumptions/11.md); no step leaves IDLE but on a command; and over any number of steps without one the phase, the requests
and the results stay the same. -/
def Obligations.IdleWaitsForCommand : Prop :=
  (∀ s : State, s.phase = .idle → s.events = [] → step s = .next s) ∧
  (∀ (s : State) (es : List Event), s.phase = .idle → s.events = .foreign :: es → step s = .next { s with events := es }) ∧
  (∀ s s' : State, s.phase = .idle → step s = .next s' → s'.phase ≠ .idle → ∃ e es, s.events = e :: es ∧ isCommand e) ∧
  (∀ (n : Nat) (s t : State), s.phase = .idle → (∀ e ∈ s.events, ¬ isCommand e) → runSteps n s = .next t →
    t.phase = .idle ∧ requestsOf t.trace = requestsOf s.trace ∧ resultsOf t.trace = resultsOf s.trace)

/-- The state after reset (R171): IDLE, no operation before it remembered, no transaction in flight, nothing delivered. That no
input is scripted yet and that the draw counter starts at 0 are the model's choices (notes/assumptions/2.md, 5.md) and are
not stated. -/
def Obligations.ResetStateIsIdle : Prop :=
  State.reset.phase = .idle ∧ State.reset.abandoned = 0 ∧ State.reset.trace = []

/-! ### The whole machine -/

/-- The history of the state after reset is legal. -/
def Obligations.HistoryLegalAtReset : Prop :=
  State.reset.historyLegal

/-- Every step keeps the history legal (R134, R75): each command was followed by the one request, each response answered a
request, each result is the one R132 gives to its response and its command's scales, resets and late answers stand only
where they may; and what the state holds is what that history leaves. -/
def Obligations.StepKeepsHistoryLegal : Prop :=
  ∀ s s' : State, s.historyLegal → step s = .next s' → s'.historyLegal

/-- A whole pop from IDLE (R120, R134): the command, then its response, deliver `pop_result` of the response and the command's
scales, once, after one request. -/
def Obligations.PopDeliversPopResult : Prop :=
  ∀ (s : State) (gs acs : F64) (r : Response) (es : List Event) (x : Result),
    s.phase = .idle → s.events = .cmd gs acs :: .rsp r :: es → popResult r gs acs s.draws = some x →
    runSteps 2 s = .next { s with
      draws := s.draws + 1, events := es,
      trace := .res x :: .rsp r :: .req { devAddr := Config.devAddr, subAddr := 0x78, len := 7 } :: .cmd gs acs :: s.trace }

/-- No admissible script stops the machine (R158), and every answered request yields exactly one result (R120): from any state,
a script of this block's environment that keeps the premises TransportContract and ExclusiveTransport (R185) runs to its end
without a fault or a refusal, and delivers as many results as it holds responses. -/
def Obligations.AdmissibleScriptsRunToTheEnd : Prop :=
  ∀ s : State, admissible s.phase.waiting s.abandoned s.events = true →
    ∃ t : State, runSteps s.events.length s = .next t ∧ t.events = [] ∧
      (resultsOf t.trace).length = (resultsOf s.trace).length + (s.events.filter isResponse).length

/-- Pops end exactly where the Transport answers (R179, R182): under the premises TransportContract and ExclusiveTransport
(R185), a run to the end of the script ends in IDLE if TransportAnswers holds of it, and otherwise in WAIT. -/
def Obligations.PopsEndIfTransportAnswers : Prop :=
  ∀ s : State, admissible s.phase.waiting s.abandoned s.events = true →
    ∃ t : State, runSteps s.events.length s = .next t ∧ t.events = [] ∧
      (transportAnswers s.phase.waiting s.events = true ↔ t.phase = .idle)

/-- Commands, requests and results match (R120, R174), under the premises StartIdle, TransportContract, ExclusiveTransport and
OnePopAtATime (R185): every command has sent one request; under TransportAnswers too, every command has ended in one result
or been abandoned by a reset (its late answer taken from the script or still to come); and with no reset every command has
its one result. -/
def Obligations.CommandsMatchResults : Prop :=
  ∀ s : State, startIdle s → admissible false 0 s.events = true → onePopAtATime false s.events = true →
    ∃ t : State, runSteps s.events.length s = .next t ∧ t.events = [] ∧
      (requestsOf t.trace).length = (s.events.filter isCommand).length ∧
      (transportAnswers false s.events = true →
        (resultsOf t.trace).length + t.abandoned + (s.events.filter isLate).length = (s.events.filter isCommand).length ∧
        ((∀ e ∈ s.events, e ≠ .reset) → (resultsOf t.trace).length = (s.events.filter isCommand).length))

/-- A pop's result depends on its response and its scales alone, but for the bits of a NaN (R21, R132, R133): two states in
the same operation that get the same response both complete, with results that agree up to NaN bits, whatever
operations, errors and resets each has behind it. -/
def Obligations.ResultIndependentOfHistory : Prop :=
  ∀ (s t s' : State) (r : Response) (es fs : List Event),
    s.phase = t.phase → s.events = .rsp r :: es → t.events = .rsp r :: fs → step s = .next s' →
    ∃ (t' : State) (x y : Result), step t = .next t' ∧ s'.phase = t'.phase ∧
      s'.trace = .res x :: .rsp r :: s.trace ∧ t'.trace = .res y :: .rsp r :: t.trace ∧ sameResult x y = true

/-- The block reads nothing of what has passed (R21, R135): exchanging the trace changes nothing of a step but the trace. -/
def Obligations.TraceIsNeverRead : Prop :=
  ∀ (s : State) (ms : List Message),
    match step s with
    | .next s' => ∃ new, s'.trace = new ++ s.trace ∧ step { s with trace := ms } = .next { s' with trace := new ++ ms }
    | .fault f => step { s with trace := ms } = .fault f
    | .refused f => step { s with trace := ms } = .refused f

/-- What a step may send (R42, R122, R135, R148): a request only when a command is accepted in IDLE, and a result only, and
then exactly one, when a response arrives in WAIT. So no retry, no second transaction, no result without an answer. -/
def Obligations.MessagesOfAStep : Prop :=
  ∀ s s' : State, step s = .next s' →
    (requestsOf s'.trace = requestsOf s.trace ∨
      s.phase = .idle ∧ (∃ gs acs es, s.events = .cmd gs acs :: es) ∧
        requestsOf s'.trace = { devAddr := Config.devAddr, subAddr := 0x78, len := 7 } :: requestsOf s.trace) ∧
    (resultsOf s'.trace = resultsOf s.trace ∨
      (∃ gs acs r es x, s.phase = .wait gs acs ∧ s.events = .rsp r :: es ∧ popResult r gs acs s.draws = some x ∧
        resultsOf s'.trace = x :: resultsOf s.trace))

/-! ### Results and lines -/

/-- Every result a pop delivers is of the shapes of R28: the code of `Other` is a 5-bit code in [3, 25]. -/
def Obligations.ResultsAreWellFormed : Prop :=
  ∀ (r : Response) (gs acs : F64) (n : Nat) (x : Result), popResult r gs acs n = some x → resultWellFormed x = true

/-- The result channel (R73, R144): the word of each result has the kind number and the fields of the table, byte j of a
pass-through payload in bits 8j+7 to 8j of `raw`; it reads back as the result, by the fields that are defined for its kind
alone; and kinds 6 and 7 are never produced and stand for no result. -/
def Obligations.ResultChannelReadsBack : Prop :=
  (∀ (n : Nat) (x : Result), readResWord (resultWord n x) = some x ∧ (resultWord n x).kind.toNat ≤ 5) ∧
  (∀ n : Nat, (resultWord n (.ok .empty)).kind = 0) ∧
  (∀ (n : Nat) (v : F3),
    (resultWord n (.ok (.gyro v))).kind = 1 ∧ (resultWord n (.ok (.gyro v))).v0 = v.x ∧
    (resultWord n (.ok (.gyro v))).v1 = v.y ∧ (resultWord n (.ok (.gyro v))).v2 = v.z) ∧
  (∀ (n : Nat) (v : F3),
    (resultWord n (.ok (.accel v))).kind = 2 ∧ (resultWord n (.ok (.accel v))).v0 = v.x ∧
    (resultWord n (.ok (.accel v))).v1 = v.y ∧ (resultWord n (.ok (.accel v))).v2 = v.z) ∧
  (∀ (n : Nat) (c : BitVec 5) (P : Payload),
    (resultWord n (.ok (.other c P))).kind = 3 ∧ (resultWord n (.ok (.other c P))).code = c ∧
    ∀ j : Fin 6, (resultWord n (.ok (.other c P))).raw.extractLsb' (8 * j) 8 = P.bytes.getD j 0) ∧
  (∀ (n : Nat) (e : TErr),
    (resultWord n (.err (.transport e))).kind = 4 ∧ (resultWord n (.err (.transport e))).terr = e) ∧
  (∀ n : Nat, (resultWord n (.err .invalidTag)).kind = 5) ∧
  (∀ w : ResWord, 6 ≤ w.kind.toNat → readResWord w = none)

/-- Assembly of a line (R77): a gyroscope or accelerometer line decodes to its row, whose payload unpacks to the lanes written;
the other kinds decode to the row of their code with the bytes written. -/
def Obligations.AssembledLinesDecode : Prop :=
  (∀ (x y z : Int) (rsv : Nat), (Line.gyroNc x y z rsv).wellFormed → ∃ P, unpack16 P = ⟨x, y, z⟩ ∧
    ∃ bs, assemble (.gyroNc x y z rsv) = .ok bs ∧ decode bs = .instr (.gyroNc (BitVec.ofNat 3 rsv) P)) ∧
  (∀ (x y z : Int) (rsv : Nat), (Line.accelNc x y z rsv).wellFormed → ∃ P, unpack16 P = ⟨x, y, z⟩ ∧
    ∃ bs, assemble (.accelNc x y z rsv) = .ok bs ∧ decode bs = .instr (.accelNc (BitVec.ofNat 3 rsv) P)) ∧
  (∀ (c rsv : Nat) (pay : List Nat),
    (Line.other c pay rsv).wellFormed →
      ∃ bs i, assemble (.other c pay rsv) = .ok bs ∧ decode bs = .instr i ∧
        i.tagCode.toNat = c ∧ i.rsv.toNat = rsv ∧ i.payload.bytes.map BitVec.toNat = pay) ∧
  (∀ (c rsv : Nat) (pay : List Nat),
    (Line.invalid c rsv pay).wellFormed →
      ∃ bs i, assemble (.invalid c rsv pay) = .ok bs ∧ decode bs = .instr i ∧
        i.tagCode.toNat = c ∧ i.rsv.toNat = rsv ∧ i.payload.bytes.map BitVec.toNat = pay) ∧
  (∀ (rsv : Nat) (pay : List Nat),
    (Line.empty rsv pay).wellFormed →
      ∃ bs i, assemble (.empty rsv pay) = .ok bs ∧ decode bs = .instr i ∧
        i.tagCode.toNat = 0 ∧ i.rsv.toNat = rsv ∧ i.payload.bytes.map BitVec.toNat = pay) ∧
  (∀ e : TErr, assemble (.fail e) = .err e)
end

