-- ==== Sys2Proof/Laws/Decode.lean ====
section
/-! SUPPORT. The fields of the tag byte, and what each function of the decoder answers. -/

namespace Sys2Proof

theorem tagByte_mask : ∀ (code : BitVec 5) (rsv : BitVec 3), tagByte code rsv &&& 0xF8 = code.setWidth 8 <<< 3 := by decide

theorem tagCode_tagByte : ∀ (code : BitVec 5) (rsv : BitVec 3), tagCode (tagByte code rsv) = code := by decide

theorem reservedBits_tagByte : ∀ (code : BitVec 5) (rsv : BitVec 3), reservedBits (tagByte code rsv) = rsv := by decide

theorem tagByte_fields : ∀ b : Byte, tagByte (tagCode b) (reservedBits b) = b := by decide

/-- The row a tag code selects has that tag code. -/
@[simp] theorem ofTagCode_tagCode (code : BitVec 5) (rsv : BitVec 3) (P : Payload) :
    (Instr.ofTagCode code rsv P).tagCode = code := by
  obtain ⟨c, hc⟩ := code
  change c < 32 at hc
  interval_cases c <;> rfl

@[simp] theorem ofTagCode_payload (code : BitVec 5) (rsv : BitVec 3) (P : Payload) :
    (Instr.ofTagCode code rsv P).payload = P := by
  obtain ⟨c, hc⟩ := code
  change c < 32 at hc
  interval_cases c <;> rfl

@[simp] theorem ofTagCode_rsv (code : BitVec 5) (rsv : BitVec 3) (P : Payload) :
    (Instr.ofTagCode code rsv P).rsv = rsv := by
  obtain ⟨c, hc⟩ := code
  change c < 32 at hc
  interval_cases c <;> rfl

/-- Only lists of seven bytes split. -/
theorem splitEntry_eq_none (bs : List Byte) (h : bs.length ≠ 7) : splitEntry bs = none := by
  unfold splitEntry
  split
  · simp at h
  · rfl

/-- A list of seven bytes splits into its head and the six others. -/
theorem splitEntry_of_length (bs : List Byte) (h : bs.length = 7) :
    ∃ b0 P, splitEntry bs = some (b0, P) ∧ bs = b0 :: P.bytes := by
  match bs, h with
  | [b0, b1, b2, b3, b4, b5, b6], _ => exact ⟨b0, ⟨b1, b2, b3, b4, b5, b6⟩, rfl, rfl⟩

@[simp] theorem splitEntry_bytes (b0 : Byte) (P : Payload) : splitEntry (b0 :: P.bytes) = some (b0, P) := rfl

end Sys2Proof
end

