-- ==== Sys2Proof/Laws/Numerics.lean ====
section
/-! SUPPORT. binary64 patterns as numbers: the fields of a pattern, the pattern of given fields, and the rounding of one
quotient. -/

namespace Sys2Proof.Machine

theorem f64Frac_eq (b : F64) : f64Frac b = b.toNat % 2 ^ 52 := by
  simp [f64Frac, BitVec.extractLsb'_toNat]

theorem f64Exp_eq (b : F64) : f64Exp b = b.toNat / 2 ^ 52 % 2 ^ 11 := by
  simp [f64Exp, BitVec.extractLsb'_toNat, Nat.shiftRight_eq_div_pow]

theorem f64Neg_eq (b : F64) : f64Neg b = decide (2 ^ 63 ≤ b.toNat) := by
  simp [f64Neg, BitVec.msb_eq_decide]

theorem f64Frac_lt (b : F64) : f64Frac b < 2 ^ 52 := by rw [f64Frac_eq]; omega

theorem f64Exp_lt (b : F64) : f64Exp b < 2 ^ 11 := by rw [f64Exp_eq]; omega

/-- A pattern is its sign, exponent field and fraction field. -/
theorem f64_toNat (b : F64) : b.toNat = (if f64Neg b then 2 ^ 63 else 0) + f64Exp b * 2 ^ 52 + f64Frac b := by
  have := b.isLt
  rw [f64Exp_eq, f64Frac_eq, f64Neg_eq]
  by_cases h : 2 ^ 63 ≤ b.toNat <;> simp only [h, decide_true, decide_false, if_true, if_false, Bool.false_eq_true] <;> omega

theorem f64Of_toNat (neg : Bool) (mag : Nat) (h : mag < 2 ^ 63) :
    (f64Of neg mag).toNat = (if neg then 2 ^ 63 else 0) + mag := by
  cases neg <;> simp [f64Of] <;> omega

theorem f64Of_neg (neg : Bool) (mag : Nat) (h : mag < 2 ^ 63) : f64Neg (f64Of neg mag) = neg := by
  rw [f64Neg_eq, f64Of_toNat neg mag h]
  cases neg <;> simp only [if_true, if_false, Bool.false_eq_true, decide_eq_true_eq, decide_eq_false_iff_not] <;> omega

theorem f64Of_exp (neg : Bool) (mag : Nat) (h : mag < 2 ^ 63) : f64Exp (f64Of neg mag) = mag / 2 ^ 52 := by
  rw [f64Exp_eq, f64Of_toNat neg mag h]
  cases neg <;> simp only [if_true, if_false, Bool.false_eq_true] <;> omega

theorem f64Of_frac (neg : Bool) (mag : Nat) (h : mag < 2 ^ 63) : f64Frac (f64Of neg mag) = mag % 2 ^ 52 := by
  rw [f64Frac_eq, f64Of_toNat neg mag h]
  cases neg <;> simp only [if_true, if_false, Bool.false_eq_true] <;> omega

/-- Two patterns with the same fields are the same. -/
theorem f64_ext (a b : F64) (hn : f64Neg a = f64Neg b) (he : f64Exp a = f64Exp b) (hf : f64Frac a = f64Frac b) : a = b := by
  apply BitVec.eq_of_toNat_eq
  rw [f64_toNat a, f64_toNat b, hn, he, hf]

theorem twoTo_eq (n : Nat) : twoTo n = 2 ^ n := by unfold twoTo; rfl

/-- The unit as a power of two with a variable exponent, so that no tactic evaluates it. -/
theorem f64UnitsPerOne_eq (w : Nat) (h : w = 1074) : f64UnitsPerOne = 2 ^ w := by rw [← twoTo_eq, h, f64UnitsPerOne]

/-- The overflow point likewise. -/
theorem f64OverflowMag_eq (w : Nat) (h : w = 2044) : f64OverflowMag = 0x3FFFFFFFFFFFFF * 2 ^ w := by
  rw [← twoTo_eq, h, f64OverflowMag]

/-- What `roundHalfEven` answers: an integer at most half a unit away, and the even one of two that are half a unit away. -/
theorem roundHalfEven_spec (n d : Nat) (hd : 0 < d) :
    2 * n ≤ 2 * (roundHalfEven n d * d) + d ∧ 2 * (roundHalfEven n d * d) ≤ 2 * n + d ∧
    ((2 * n = 2 * (roundHalfEven n d * d) + d ∨ 2 * (roundHalfEven n d * d) = 2 * n + d) → roundHalfEven n d % 2 = 0) := by
  have hdm : n = n / d * d + n % d := (Nat.div_add_mod' n d).symm
  have hlt := Nat.mod_lt n hd
  unfold roundHalfEven
  generalize n % d = r at *
  generalize n / d = k at *
  subst hdm
  split
  · exact ⟨by omega, by omega, by omega⟩
  · have hs : (k + 1) * d = k * d + d := Nat.succ_mul k d
    split
    · exact ⟨by omega, by omega, by omega⟩
    · rcases Nat.mod_two_eq_zero_or_one k with hk | hk <;> rw [hk]
      · exact ⟨by rw [Nat.add_zero]; omega, by rw [Nat.add_zero]; omega, fun _ => hk⟩
      · exact ⟨by omega, by omega, fun _ => by omega⟩

theorem f64Mag_eq (b : F64) : f64Mag b = f64Sig b * 2 ^ f64Pow b := by rw [f64Mag, Nat.shiftLeft_eq]

/-- The rounding of a product with its parts named and the exponent of the least unit a variable. -/
theorem roundProduct_eq (m q w e : Nat) (h : w = 1074) (he : e = Nat.log2 m + q - (w + 52)) :
    roundProduct m q =
      min (e * 2 ^ 52 + roundHalfEven (m * 2 ^ (q - (w + e))) (2 ^ (w + e - q))) 0x7FF0000000000000 := by
  have h' : Nat.log2 m + q - 1126 = e := by omega
  simp only [roundProduct, h', ← h, Nat.shiftLeft_eq, Nat.one_mul]

/-- The pattern of a converted non-zero integer. -/
theorem i2f_eq (n : Int) (h : n ≠ 0) :
    i2f n = f64Of (decide (n < 0)) ((1023 + n.natAbs.log2) * 2 ^ 52 + (n.natAbs - 2 ^ n.natAbs.log2) * 2 ^ (52 - n.natAbs.log2)) := by
  simp only [i2f, h, if_false, Nat.shiftLeft_eq, Nat.one_mul]

end Sys2Proof.Machine
end

