-- ==== Sys2Proof/Laws/Operands.lean ====
section
/-! SUPPORT. Byte pairs and lanes as numbers. -/

namespace Sys2Proof.Machine

theorem le16_toNat (lo hi : Byte) : (le16 lo hi).toNat = lo.toNat + 256 * hi.toNat := by
  have h1 := lo.isLt
  have h2 := hi.isLt
  have e : (le16 lo hi).toNat = hi.toNat <<< 8 ||| lo.toNat := by
    rw [le16, BitVec.toNat_or, BitVec.toNat_shiftLeft, BitVec.toNat_setWidth, BitVec.toNat_setWidth,
      Nat.mod_eq_of_lt (by omega : hi.toNat < 2 ^ 16), Nat.mod_eq_of_lt (by omega : lo.toNat < 2 ^ 16),
      Nat.mod_eq_of_lt (by rw [Nat.shiftLeft_eq]; omega)]
  rw [e, ← Nat.shiftLeft_add_eq_or_of_lt h1, Nat.shiftLeft_eq]
  omega

/-- The low byte of a pair is its first byte. -/
theorem le16_low (lo hi : Byte) : (le16 lo hi).setWidth 8 = lo := by
  apply BitVec.eq_of_toNat_eq
  have := lo.isLt
  simp [le16_toNat]
  omega

/-- The high byte of a pair is its second byte. -/
theorem le16_high (lo hi : Byte) : (le16 lo hi >>> 8).setWidth 8 = hi := by
  apply BitVec.eq_of_toNat_eq
  have := lo.isLt
  have := hi.isLt
  simp [le16_toNat, Nat.shiftRight_eq_div_pow]
  omega

/-- A pattern is the pair of its own bytes. -/
theorem le16_of_bytes (u : BitVec 16) : le16 (u.setWidth 8) ((u >>> 8).setWidth 8) = u := by
  apply BitVec.eq_of_toNat_eq
  rw [le16_toNat]
  have := u.isLt
  simp [Nat.shiftRight_eq_div_pow]
  omega

theorem s16_eq_toInt (u : BitVec 16) : s16 u = u.toInt := by
  unfold s16
  rw [BitVec.toInt_eq_toNat_cond]
  split <;> split <;> omega

theorem laneInRange_iff (n : Int) : laneInRange n = true ↔ -32768 ≤ n ∧ n ≤ 32767 := by simp [laneInRange]

theorem s16_laneInRange (u : BitVec 16) : laneInRange (s16 u) = true := by
  have := u.isLt
  rw [laneInRange_iff]
  unfold s16
  split <;> omega

end Sys2Proof.Machine
end

