-- ==== Sys2Proof/Laws/State.lean ====
section
/-! SUPPORT. The fields of a state after each update: one lemma per field, so that no proof unfolds a record update. -/

namespace Sys2Proof.Machine

@[simp] theorem continueWith_phase (s : State) (es : List Event) : (s.continueWith es).phase = s.phase := rfl
@[simp] theorem continueWith_abandoned (s : State) (es : List Event) : (s.continueWith es).abandoned = s.abandoned := rfl
@[simp] theorem continueWith_draws (s : State) (es : List Event) : (s.continueWith es).draws = s.draws := rfl
@[simp] theorem continueWith_events (s : State) (es : List Event) : (s.continueWith es).events = es := rfl
@[simp] theorem continueWith_trace (s : State) (es : List Event) : (s.continueWith es).trace = s.trace := rfl

@[simp] theorem observe_phase (s : State) (m : Message) : (s.observe m).phase = s.phase := rfl
@[simp] theorem observe_abandoned (s : State) (m : Message) : (s.observe m).abandoned = s.abandoned := rfl
@[simp] theorem observe_draws (s : State) (m : Message) : (s.observe m).draws = s.draws := rfl
@[simp] theorem observe_events (s : State) (m : Message) : (s.observe m).events = s.events := rfl
@[simp] theorem observe_trace (s : State) (m : Message) : (s.observe m).trace = m :: s.trace := rfl

@[simp] theorem issue_phase (s : State) (gs acs : F64) : (issue gs acs s).phase = .wait gs acs := rfl
@[simp] theorem issue_abandoned (s : State) (gs acs : F64) : (issue gs acs s).abandoned = s.abandoned := rfl
@[simp] theorem issue_draws (s : State) (gs acs : F64) : (issue gs acs s).draws = s.draws := rfl
@[simp] theorem issue_events (s : State) (gs acs : F64) : (issue gs acs s).events = s.events := rfl
@[simp] theorem issue_trace (s : State) (gs acs : F64) : (issue gs acs s).trace = .req request :: .cmd gs acs :: s.trace := rfl

@[simp] theorem deliver_phase (s : State) (x : Result) : (deliver x s).phase = .idle := rfl
@[simp] theorem deliver_abandoned (s : State) (x : Result) : (deliver x s).abandoned = s.abandoned := rfl
@[simp] theorem deliver_draws (s : State) (x : Result) : (deliver x s).draws = s.draws + 1 := rfl
@[simp] theorem deliver_events (s : State) (x : Result) : (deliver x s).events = s.events := rfl
@[simp] theorem deliver_trace (s : State) (x : Result) : (deliver x s).trace = .res x :: s.trace := rfl

@[simp] theorem raiseError_eq (s : State) (e : PopError) : raiseError e s = deliver (.err e) s := rfl

theorem offerCommand_idle (s : State) (gs acs : F64) (h : s.phase = .idle) : offerCommand gs acs s = issue gs acs s := by
  simp [offerCommand, h]

theorem offerCommand_wait (s : State) (gs acs g a : F64) (h : s.phase = .wait g a) : offerCommand gs acs s = s := by
  simp [offerCommand, h]

@[simp] theorem offerCommand_events (s : State) (gs acs : F64) : (offerCommand gs acs s).events = s.events := by
  unfold offerCommand; split <;> rfl

theorem hardReset_idle (s : State) (h : s.phase = .idle) : hardReset s = s.observe .reset := by
  simp [hardReset, h]

theorem hardReset_wait (s : State) (g a : F64) (h : s.phase = .wait g a) :
    hardReset s = { s with phase := .idle, abandoned := s.abandoned + 1, trace := .reset :: s.trace } := by
  simp [hardReset, h]

@[simp] theorem hardReset_phase (s : State) : (hardReset s).phase = .idle := by
  unfold hardReset; split
  · assumption
  · rfl

@[simp] theorem hardReset_draws (s : State) : (hardReset s).draws = s.draws := by unfold hardReset; split <;> rfl

@[simp] theorem hardReset_events (s : State) : (hardReset s).events = s.events := by unfold hardReset; split <;> rfl

@[simp] theorem hardReset_trace (s : State) : (hardReset s).trace = .reset :: s.trace := by unfold hardReset; split <;> rfl

end Sys2Proof.Machine
end

