-- ==== Sys2Proof/Laws/Ops.lean ====
section
/-! SUPPORT. What each shared operation can do, said once; proofs cite these lemmas and do not unfold the operations. -/

namespace Sys2Proof.Machine

/-- Every meaning is the completion of an entry with its row's tag code. -/
theorem exec_eq (i : Instr) (s : State) : exec i s = completeEntry i.tagCode i.payload s := by cases i <;> rfl

theorem completeEntry_idle (code : BitVec 5) (P : Payload) (s : State) (h : s.phase = .idle) :
    completeEntry code P s = .refused .noOperation := by simp [completeEntry, h]

theorem completeEntry_wait (code : BitVec 5) (P : Payload) (s : State) (gs acs : F64) (h : s.phase = .wait gs acs) :
    completeEntry code P s = .next (deliver (entryResult code P gs acs s.draws) s) := by
  simp only [completeEntry, h, raiseError_eq]
  split <;> simp_all

/-- A response in IDLE is refused. -/
theorem respond_idle (r : Response) (s : State) (h : s.phase = .idle) : respond r s = .refused .noOperation := by
  simp [respond, h]

/-- A response in WAIT: the result of R132 is delivered, or the length faults. -/
theorem respond_wait (r : Response) (s : State) (gs acs : F64) (h : s.phase = .wait gs acs) :
    respond r s =
      match popResult r gs acs s.draws with
      | some x => .next (deliver x (s.observe (.rsp r)))
      | none => .fault .lengthViolation := by
  cases r with
  | err e => simp [respond, h, popResult]
  | ok bs =>
    simp only [respond, h, popResult, decode]
    cases splitEntry bs with
    | none => rfl
    | some p =>
      have hw : (s.observe (.rsp (.ok bs))).phase = .wait gs acs := h
      simp [exec_eq, completeEntry_wait _ _ _ _ _ hw]

/-- All that one event can do when it answers a next state: the steps of R134 and R170, one case each. -/
theorem takeEvent_cases (e : Event) (s s' : State) (h : takeEvent e s = .next s') :
    (∃ gs acs, e = .cmd gs acs ∧ s.phase = .idle ∧ s' = issue gs acs s) ∨
    (∃ gs acs g a, e = .cmd gs acs ∧ s.phase = .wait g a ∧ s' = s) ∨
    (∃ r gs acs x, e = .rsp r ∧ s.phase = .wait gs acs ∧ popResult r gs acs s.draws = some x ∧
      s' = deliver x (s.observe (.rsp r))) ∨
    (∃ r k, e = .late r ∧ s.abandoned = k + 1 ∧ s' = { s with abandoned := k, trace := .late r :: s.trace }) ∨
    (e = .reset ∧ s' = hardReset s) ∨
    (e = .foreign ∧ s.phase = .idle ∧ s' = s) := by
  cases e with
  | cmd gs acs =>
    simp only [takeEvent, Host.Outcome.next.injEq] at h
    cases hp : s.phase with
    | idle => exact .inl ⟨gs, acs, rfl, rfl, h ▸ offerCommand_idle s gs acs hp⟩
    | wait g a => exact .inr (.inl ⟨gs, acs, g, a, rfl, rfl, h ▸ offerCommand_wait s gs acs g a hp⟩)
  | rsp r =>
    simp only [takeEvent] at h
    cases hp : s.phase with
    | idle => simp [respond_idle r s hp] at h
    | wait gs acs =>
      rw [respond_wait r s gs acs hp] at h
      cases hx : popResult r gs acs s.draws with
      | none => simp [hx] at h
      | some x =>
        simp only [hx, Host.Outcome.next.injEq] at h
        exact .inr (.inr (.inl ⟨r, gs, acs, x, rfl, rfl, hx, h.symm⟩))
  | late r =>
    simp only [takeEvent, dropLate] at h
    split at h
    · simp at h
    · rename_i k hk
      simp only [Host.Outcome.next.injEq] at h
      exact .inr (.inr (.inr (.inl ⟨r, k, rfl, hk, h.symm⟩)))
  | reset =>
    simp only [takeEvent, Host.Outcome.next.injEq] at h
    exact .inr (.inr (.inr (.inr (.inl ⟨rfl, h.symm⟩))))
  | foreign =>
    simp only [takeEvent, foreignAccess] at h
    split at h
    · rename_i hp
      simp only [Host.Outcome.next.injEq] at h
      exact .inr (.inr (.inr (.inr (.inr ⟨rfl, hp, h.symm⟩))))
    · simp at h

/-- A step takes the next event of the script. -/
theorem step_cons (s : State) (e : Event) (es : List Event) (h : s.events = e :: es) :
    step s = takeEvent e (s.continueWith es) := by simp [step, advance, h]

/-- With no event left the machine stays as it is. -/
theorem step_nil (s : State) (h : s.events = []) : step s = .next s := by simp [step, advance, h]

end Sys2Proof.Machine
end

