-- ==== Sys2Proof/Laws/PerInstr.lean ====
section
/-! SUPPORT. Facts made per instruction, one lemma per constructor. -/

namespace Sys2Proof.Laws.EncodedEntry

/-- The encoded entry of an instruction: its tag byte carries the tag code of its row in bits 7 to 3 (the match of R68) and its
reserved bits in bits 2 to 0, and its other six bytes are its payload (R61, R63). -/
def Statement (i : Instr) : Prop :=
  ∃ b0 : Byte, encode i = b0 :: i.payload.bytes ∧ b0 &&& 0xF8 = i.tagCode.setWidth 8 <<< 3 ∧ b0.setWidth 3 = i.rsv

/-- What the lemmas below have in common: the tag byte of any code and reserved bits. -/
theorem of_tagByte (i : Instr) : Statement i :=
  ⟨tagByte i.tagCode i.rsv, rfl, tagByte_mask _ _, reservedBits_tagByte _ _⟩

theorem empty (rsv : BitVec 3) (pay : Payload) : Statement (.empty rsv pay) := of_tagByte _
theorem gyroNc (rsv : BitVec 3) (pay : Payload) : Statement (.gyroNc rsv pay) := of_tagByte _
theorem accelNc (rsv : BitVec 3) (pay : Payload) : Statement (.accelNc rsv pay) := of_tagByte _
theorem other03 (rsv : BitVec 3) (pay : Payload) : Statement (.other03 rsv pay) := of_tagByte _
theorem other04 (rsv : BitVec 3) (pay : Payload) : Statement (.other04 rsv pay) := of_tagByte _
theorem other05 (rsv : BitVec 3) (pay : Payload) : Statement (.other05 rsv pay) := of_tagByte _
theorem other06 (rsv : BitVec 3) (pay : Payload) : Statement (.other06 rsv pay) := of_tagByte _
theorem other07 (rsv : BitVec 3) (pay : Payload) : Statement (.other07 rsv pay) := of_tagByte _
theorem other08 (rsv : BitVec 3) (pay : Payload) : Statement (.other08 rsv pay) := of_tagByte _
theorem other09 (rsv : BitVec 3) (pay : Payload) : Statement (.other09 rsv pay) := of_tagByte _
theorem other0A (rsv : BitVec 3) (pay : Payload) : Statement (.other0A rsv pay) := of_tagByte _
theorem other0B (rsv : BitVec 3) (pay : Payload) : Statement (.other0B rsv pay) := of_tagByte _
theorem other0C (rsv : BitVec 3) (pay : Payload) : Statement (.other0C rsv pay) := of_tagByte _
theorem other0D (rsv : BitVec 3) (pay : Payload) : Statement (.other0D rsv pay) := of_tagByte _
theorem other0E (rsv : BitVec 3) (pay : Payload) : Statement (.other0E rsv pay) := of_tagByte _
theorem other0F (rsv : BitVec 3) (pay : Payload) : Statement (.other0F rsv pay) := of_tagByte _
theorem other10 (rsv : BitVec 3) (pay : Payload) : Statement (.other10 rsv pay) := of_tagByte _
theorem other11 (rsv : BitVec 3) (pay : Payload) : Statement (.other11 rsv pay) := of_tagByte _
theorem other12 (rsv : BitVec 3) (pay : Payload) : Statement (.other12 rsv pay) := of_tagByte _
theorem other13 (rsv : BitVec 3) (pay : Payload) : Statement (.other13 rsv pay) := of_tagByte _
theorem other14 (rsv : BitVec 3) (pay : Payload) : Statement (.other14 rsv pay) := of_tagByte _
theorem other15 (rsv : BitVec 3) (pay : Payload) : Statement (.other15 rsv pay) := of_tagByte _
theorem other16 (rsv : BitVec 3) (pay : Payload) : Statement (.other16 rsv pay) := of_tagByte _
theorem other17 (rsv : BitVec 3) (pay : Payload) : Statement (.other17 rsv pay) := of_tagByte _
theorem other18 (rsv : BitVec 3) (pay : Payload) : Statement (.other18 rsv pay) := of_tagByte _
theorem other19 (rsv : BitVec 3) (pay : Payload) : Statement (.other19 rsv pay) := of_tagByte _
theorem invalid1A (rsv : BitVec 3) (pay : Payload) : Statement (.invalid1A rsv pay) := of_tagByte _
theorem invalid1B (rsv : BitVec 3) (pay : Payload) : Statement (.invalid1B rsv pay) := of_tagByte _
theorem invalid1C (rsv : BitVec 3) (pay : Payload) : Statement (.invalid1C rsv pay) := of_tagByte _
theorem invalid1D (rsv : BitVec 3) (pay : Payload) : Statement (.invalid1D rsv pay) := of_tagByte _
theorem invalid1E (rsv : BitVec 3) (pay : Payload) : Statement (.invalid1E rsv pay) := of_tagByte _
theorem invalid1F (rsv : BitVec 3) (pay : Payload) : Statement (.invalid1F rsv pay) := of_tagByte _

end Sys2Proof.Laws.EncodedEntry
end

