-- ==== Sys2Proof/Laws/Run.lean ====
section
/-! SUPPORT. Runs of several steps: the host's run, and one step at a time. -/

namespace Sys2Proof.Machine

/-- The host's run, by what its first step answers. -/
theorem core_run_succ (M : Host.Core) (n : Nat) (s : M.State) :
    (∀ s', M.step s = .next s' → M.run (n + 1) s = M.run n s') ∧
    (∀ f, M.step s = .fault f → M.run (n + 1) s = .fault f) ∧
    (∀ f, M.step s = .refused f → M.run (n + 1) s = .refused f) := by
  refine ⟨fun s' h => ?_, fun f h => ?_, fun f h => ?_⟩ <;> simp [Host.Core.run, h]

theorem runSteps_eq_core_run (n : Nat) (s : State) : runSteps n s = Host.Core.run Sys2Proof.core n s := by
  induction n generalizing s with
  | zero => rfl
  | succ n ih =>
    obtain ⟨hn, hf, hr⟩ := core_run_succ Sys2Proof.core n s
    cases hs : step s with
    | next s' => rw [hn s' hs, runSteps, hs]; exact ih s'
    | fault f => rw [hf f hs, runSteps, hs]; rfl
    | refused f => rw [hr f hs, runSteps, hs]; rfl

@[simp] theorem runSteps_zero (s : State) : runSteps 0 s = .next s := rfl

theorem runSteps_succ (n : Nat) (s s' : State) (h : step s = .next s') : runSteps (n + 1) s = runSteps n s' := by
  simp [runSteps, h]

/-- A run that reaches a next state took a first step to one. -/
theorem runSteps_succ_next (n : Nat) (s t : State) (h : runSteps (n + 1) s = .next t) :
    ∃ s', step s = .next s' ∧ runSteps n s' = .next t := by
  simp only [runSteps] at h
  split at h
  · exact ⟨_, by assumption, h⟩
  · simp at h
  · simp at h

/-- What one step can do: nothing with no event left, or one event. -/
theorem step_next (s s' : State) (h : step s = .next s') :
    s.events = [] ∧ s' = s ∨ ∃ e es, s.events = e :: es ∧ takeEvent e (s.continueWith es) = .next s' := by
  cases he : s.events with
  | nil =>
    rw [step_nil s he, Host.Outcome.next.injEq] at h
    exact .inl ⟨rfl, h.symm⟩
  | cons e es =>
    rw [step_cons s e es he] at h
    exact .inr ⟨e, es, rfl, h⟩

/-- The replay of one more message. -/
theorem replay_cons (m : Message) (ms : List Message) (h : Replayed) (e : replay ms = some h) :
    replay (m :: ms) = replayMessage m h := by rw [replay, e]; rfl

end Sys2Proof.Machine
end

