-- ==== Sys2Proof/Laws/Safety.lean ====
section
/-! SUPPORT. Admissible scripts event by event, what one step does on such a script, and the state after reset as a start. -/

namespace Sys2Proof.Machine

theorem startIdle_reset : startIdle State.reset := ⟨rfl, rfl, rfl⟩

@[simp] theorem admissible_nil (w : Bool) (k : Nat) : admissible w k [] = true := rfl

@[simp] theorem admissible_cmd (w : Bool) (k : Nat) (gs acs : F64) (es : List Event) :
    admissible w k (.cmd gs acs :: es) = admissible true k es := by
  cases w <;> simp [admissible, answersFollowRequests, transportContract, exclusiveTransport, waitingAfter, isForeign]

@[simp] theorem admissible_rsp (w : Bool) (k : Nat) (r : Response) (es : List Event) :
    admissible w k (.rsp r :: es) = (w && keepsContract r && admissible false k es) := by
  cases w <;> cases h : keepsContract r <;>
    simp [admissible, answersFollowRequests, transportContract, exclusiveTransport, waitingAfter, isForeign, h]

@[simp] theorem admissible_late (w : Bool) (k : Nat) (r : Response) (es : List Event) :
    admissible w k (.late r :: es) = (k != 0 && admissible w (k - 1) es) := by
  cases w <;> cases k <;> simp [admissible, answersFollowRequests, transportContract, exclusiveTransport, waitingAfter, isForeign]

@[simp] theorem admissible_reset (w : Bool) (k : Nat) (es : List Event) :
    admissible w k (.reset :: es) = admissible false (if w then k + 1 else k) es := by
  cases w <;> simp [admissible, answersFollowRequests, transportContract, exclusiveTransport, waitingAfter, isForeign]

@[simp] theorem admissible_foreign (w : Bool) (k : Nat) (es : List Event) :
    admissible w k (.foreign :: es) = (!w && admissible w k es) := by
  cases w <;> simp [admissible, answersFollowRequests, transportContract, exclusiveTransport, waitingAfter, isForeign]

/-- A response that keeps the contract has a result. -/
theorem popResult_of_keepsContract (r : Response) (gs acs : F64) (n : Nat) (h : keepsContract r = true) :
    ∃ x, popResult r gs acs n = some x := by
  cases r with
  | err e => exact ⟨_, rfl⟩
  | ok bs =>
    obtain ⟨b0, P, h1, _⟩ := splitEntry_of_length bs (by simpa [keepsContract, Param.entryLen] using h)
    exact ⟨_, by simp [popResult, h1]; rfl⟩

/-- What one step does on an admissible script: it takes the event, leaves an admissible script, and moves the phase and
the counts of requests, results and abandoned requests as that event does. -/
theorem step_of_admissible (s : State) (e : Event) (es : List Event) (he : s.events = e :: es)
    (h : admissible s.phase.waiting s.abandoned (e :: es) = true) :
    ∃ s', step s = .next s' ∧ s'.events = es ∧ s'.phase.waiting = waitingAfter s.phase.waiting e ∧
      admissible s'.phase.waiting s'.abandoned es = true ∧
      (requestsOf s'.trace).length = (requestsOf s.trace).length + (isCommand e && !s.phase.waiting).toNat ∧
      (resultsOf s'.trace).length = (resultsOf s.trace).length + (isResponse e).toNat ∧
      s'.abandoned + (isLate e).toNat = s.abandoned + (e == .reset && s.phase.waiting).toNat := by
  rw [step_cons s e es he]
  cases hp : s.phase with
  | idle =>
    have hc : (s.continueWith es).phase = .idle := hp
    cases e with
    | cmd gs acs =>
      exact ⟨issue gs acs (s.continueWith es), by rw [takeEvent, offerCommand_idle _ _ _ hc], rfl, rfl,
        by simpa [Phase.waiting] using h, rfl, rfl, rfl⟩
    | rsp r => simp [hp, Phase.waiting] at h
    | late r =>
      simp only [hp, admissible_late, Bool.and_eq_true, bne_iff_ne] at h
      obtain ⟨k, hk⟩ := Nat.exists_eq_succ_of_ne_zero h.1
      refine ⟨{ s with events := es, abandoned := k, trace := .late r :: s.trace }, ?_, rfl, ?_, ?_, rfl, rfl, ?_⟩
      · simp [takeEvent, dropLate, hk, State.continueWith, hp]
      · simp [hp, waitingAfter]
      · simpa [hp, hk] using h.2
      · simp [isLate, hk]
    | reset =>
      exact ⟨(s.continueWith es).observe .reset, by rw [takeEvent, hardReset_idle _ hc], rfl,
        by simp [hp, waitingAfter, Phase.waiting], by simpa [hp, Phase.waiting] using h, rfl, rfl, rfl⟩
    | foreign =>
      exact ⟨s.continueWith es, by simp [takeEvent, foreignAccess, hp], rfl, by simp [hp, waitingAfter],
        by simpa [hp, Phase.waiting] using h, rfl, rfl, rfl⟩
  | wait g a =>
    have hc : (s.continueWith es).phase = .wait g a := hp
    cases e with
    | cmd gs acs =>
      exact ⟨s.continueWith es, by rw [takeEvent, offerCommand_wait _ _ _ g a hc], rfl,
        by simp [hp, waitingAfter, Phase.waiting], by simpa [hp, Phase.waiting] using h, rfl, rfl, rfl⟩
    | rsp r =>
      simp only [hp, Phase.waiting, admissible_rsp, Bool.true_and, Bool.and_eq_true] at h
      obtain ⟨x, hx⟩ := popResult_of_keepsContract r g a s.draws h.1
      refine ⟨deliver x ((s.continueWith es).observe (.rsp r)), ?_, rfl, rfl, h.2, rfl, rfl, rfl⟩
      rw [takeEvent, respond_wait _ _ g a hc]
      simp [hx]
    | late r =>
      simp only [hp, admissible_late, Bool.and_eq_true, bne_iff_ne] at h
      obtain ⟨k, hk⟩ := Nat.exists_eq_succ_of_ne_zero h.1
      refine ⟨{ s with events := es, abandoned := k, trace := .late r :: s.trace }, ?_, rfl, ?_, ?_, rfl, rfl, ?_⟩
      · simp [takeEvent, dropLate, hk, State.continueWith, hp]
      · simp [hp, waitingAfter]
      · simpa [hp, hk] using h.2
      · simp [isLate, hk]
    | reset =>
      refine ⟨{ s with phase := .idle, abandoned := s.abandoned + 1, events := es, trace := .reset :: s.trace }, ?_, rfl, rfl,
        by simpa [hp, Phase.waiting] using h, rfl, rfl, rfl⟩
      rw [takeEvent, hardReset_wait _ g a hc]
      rfl
    | foreign => simp [hp, Phase.waiting] at h

end Sys2Proof.Machine
end

