-- ==== Sys2Proof/Tests/Slice0.lean ====
section
/-! SUPPORT. Tests: expected values from the spec's tables and vectors (95_test_vectors.md) or written out by hand from its
encodings, and for each obligation with hypotheses a witness that meets them. -/

namespace Sys2Proof.Tests

open Sys2Proof Sys2Proof.Machine

/-! ### Helpers: small states -/

/-- WAIT with the scales `gs`, `acs` and the script `es`, everything else as after reset. -/
def waiting (gs acs : F64) (es : List Event) : State := { State.reset with phase := .wait gs acs, events := es }

/-- IDLE with the script `es`. -/
def idling (es : List Event) : State := { State.reset with events := es }

/-- The result that the next step delivers on RES, if it delivers one. -/
def resultOf (s : State) : Option Result :=
  match step s with
  | .next t =>
    match t.trace with
    | .res x :: _ => some x
    | _ => none
  | .fault _ => none
  | .refused _ => none

/-- The result of the entry `bs` under the scales `gs`, `acs`. -/
def popOf (gs acs : F64) (bs : List Byte) : Option Result := resultOf (waiting gs acs [.rsp (.ok bs)])

def one : F64 := 0x3FF0000000000000
def aNaN : F64 := 0x7FF8000000000000
def inf : F64 := 0x7FF0000000000000

/-! ### Well-formedness: an ill-formed term for each check -/

theorem test_entry_six_bytes_refused : entryWellFormed [0xD8, 0, 0, 0, 0, 0] = false := by decide
theorem test_entry_eight_bytes_refused : entryWellFormed [0x08, 0, 0, 0, 0, 0, 0, 0] = false := by decide
theorem test_entry_seven_bytes_accepted : entryWellFormed [0xD8, 0, 0, 0, 0, 0, 0] = true := by decide
theorem test_instr_every_term_accepted : ∀ i : Instr, i.wellFormed = true := fun _ => rfl
theorem test_line_reserved_too_wide_refused : (Line.empty 8 [0, 0, 0, 0, 0, 0]).wellFormed = false := by decide
theorem test_line_short_payload_refused : (Line.empty 0 [0, 0, 0, 0, 0]).wellFormed = false := by decide
theorem test_line_wide_byte_refused : (Line.empty 0 [0, 0, 256, 0, 0, 0]).wellFormed = false := by decide
theorem test_line_lane_too_high_refused : (Line.gyroNc 32768 0 0 0).wellFormed = false := by decide
theorem test_line_lane_too_low_refused : (Line.accelNc 0 (-32769) 0 0).wellFormed = false := by decide
theorem test_line_other_code_2_refused : (Line.other 2 [0, 0, 0, 0, 0, 0] 0).wellFormed = false := by decide
theorem test_line_other_code_26_refused : (Line.other 26 [0, 0, 0, 0, 0, 0] 0).wellFormed = false := by decide
theorem test_line_invalid_code_25_refused : (Line.invalid 25 0 [0, 0, 0, 0, 0, 0]).wellFormed = false := by decide
theorem test_contract_six_bytes_refused : keepsContract (.ok [0xD8, 0, 0, 0, 0, 0]) = false := by decide
theorem test_result_other_code_2_refused : resultWellFormed (.ok (.other 2 ⟨0, 0, 0, 0, 0, 0⟩)) = false := by decide
theorem test_result_other_code_26_refused : resultWellFormed (.ok (.other 26 ⟨0, 0, 0, 0, 0, 0⟩)) = false := by decide

/-! ### Decoding: one entry per row, its tag byte written out from R63 (code in bits 7 to 3, reserved in bits 2 to 0) -/

theorem test_decode_empty : decode [0b00000_001, 1, 2, 3, 4, 5, 6] = .instr (.empty 1 ⟨1, 2, 3, 4, 5, 6⟩) := by decide
theorem test_decode_gyroNc : decode [0b00001_100, 1, 2, 3, 4, 5, 6] = .instr (.gyroNc 4 ⟨1, 2, 3, 4, 5, 6⟩) := by decide
theorem test_decode_accelNc : decode [0b00010_111, 1, 2, 3, 4, 5, 6] = .instr (.accelNc 7 ⟨1, 2, 3, 4, 5, 6⟩) := by decide
theorem test_decode_other03 : decode [0b00011_010, 1, 2, 3, 4, 5, 6] = .instr (.other03 2 ⟨1, 2, 3, 4, 5, 6⟩) := by decide
theorem test_decode_other04 : decode [0b00100_101, 1, 2, 3, 4, 5, 6] = .instr (.other04 5 ⟨1, 2, 3, 4, 5, 6⟩) := by decide
theorem test_decode_other05 : decode [0b00101_000, 1, 2, 3, 4, 5, 6] = .instr (.other05 0 ⟨1, 2, 3, 4, 5, 6⟩) := by decide
theorem test_decode_other06 : decode [0b00110_011, 1, 2, 3, 4, 5, 6] = .instr (.other06 3 ⟨1, 2, 3, 4, 5, 6⟩) := by decide
theorem test_decode_other07 : decode [0b00111_110, 1, 2, 3, 4, 5, 6] = .instr (.other07 6 ⟨1, 2, 3, 4, 5, 6⟩) := by decide
theorem test_decode_other08 : decode [0b01000_001, 1, 2, 3, 4, 5, 6] = .instr (.other08 1 ⟨1, 2, 3, 4, 5, 6⟩) := by decide
theorem test_decode_other09 : decode [0b01001_100, 1, 2, 3, 4, 5, 6] = .instr (.other09 4 ⟨1, 2, 3, 4, 5, 6⟩) := by decide
theorem test_decode_other0A : decode [0b01010_111, 1, 2, 3, 4, 5, 6] = .instr (.other0A 7 ⟨1, 2, 3, 4, 5, 6⟩) := by decide
theorem test_decode_other0B : decode [0b01011_010, 1, 2, 3, 4, 5, 6] = .instr (.other0B 2 ⟨1, 2, 3, 4, 5, 6⟩) := by decide
theorem test_decode_other0C : decode [0b01100_101, 1, 2, 3, 4, 5, 6] = .instr (.other0C 5 ⟨1, 2, 3, 4, 5, 6⟩) := by decide
theorem test_decode_other0D : decode [0b01101_000, 1, 2, 3, 4, 5, 6] = .instr (.other0D 0 ⟨1, 2, 3, 4, 5, 6⟩) := by decide
theorem test_decode_other0E : decode [0b01110_011, 1, 2, 3, 4, 5, 6] = .instr (.other0E 3 ⟨1, 2, 3, 4, 5, 6⟩) := by decide
theorem test_decode_other0F : decode [0b01111_110, 1, 2, 3, 4, 5, 6] = .instr (.other0F 6 ⟨1, 2, 3, 4, 5, 6⟩) := by decide
theorem test_decode_other10 : decode [0b10000_001, 1, 2, 3, 4, 5, 6] = .instr (.other10 1 ⟨1, 2, 3, 4, 5, 6⟩) := by decide
theorem test_decode_other11 : decode [0b10001_100, 1, 2, 3, 4, 5, 6] = .instr (.other11 4 ⟨1, 2, 3, 4, 5, 6⟩) := by decide
theorem test_decode_other12 : decode [0b10010_111, 1, 2, 3, 4, 5, 6] = .instr (.other12 7 ⟨1, 2, 3, 4, 5, 6⟩) := by decide
theorem test_decode_other13 : decode [0b10011_010, 1, 2, 3, 4, 5, 6] = .instr (.other13 2 ⟨1, 2, 3, 4, 5, 6⟩) := by decide
theorem test_decode_other14 : decode [0b10100_101, 1, 2, 3, 4, 5, 6] = .instr (.other14 5 ⟨1, 2, 3, 4, 5, 6⟩) := by decide
theorem test_decode_other15 : decode [0b10101_000, 1, 2, 3, 4, 5, 6] = .instr (.other15 0 ⟨1, 2, 3, 4, 5, 6⟩) := by decide
theorem test_decode_other16 : decode [0b10110_011, 1, 2, 3, 4, 5, 6] = .instr (.other16 3 ⟨1, 2, 3, 4, 5, 6⟩) := by decide
theorem test_decode_other17 : decode [0b10111_110, 1, 2, 3, 4, 5, 6] = .instr (.other17 6 ⟨1, 2, 3, 4, 5, 6⟩) := by decide
theorem test_decode_other18 : decode [0b11000_001, 1, 2, 3, 4, 5, 6] = .instr (.other18 1 ⟨1, 2, 3, 4, 5, 6⟩) := by decide
theorem test_decode_other19 : decode [0b11001_100, 1, 2, 3, 4, 5, 6] = .instr (.other19 4 ⟨1, 2, 3, 4, 5, 6⟩) := by decide
theorem test_decode_invalid1A : decode [0b11010_111, 1, 2, 3, 4, 5, 6] = .instr (.invalid1A 7 ⟨1, 2, 3, 4, 5, 6⟩) := by decide
theorem test_decode_invalid1B : decode [0b11011_010, 1, 2, 3, 4, 5, 6] = .instr (.invalid1B 2 ⟨1, 2, 3, 4, 5, 6⟩) := by decide
theorem test_decode_invalid1C : decode [0b11100_101, 1, 2, 3, 4, 5, 6] = .instr (.invalid1C 5 ⟨1, 2, 3, 4, 5, 6⟩) := by decide
theorem test_decode_invalid1D : decode [0b11101_000, 1, 2, 3, 4, 5, 6] = .instr (.invalid1D 0 ⟨1, 2, 3, 4, 5, 6⟩) := by decide
theorem test_decode_invalid1E : decode [0b11110_011, 1, 2, 3, 4, 5, 6] = .instr (.invalid1E 3 ⟨1, 2, 3, 4, 5, 6⟩) := by decide
theorem test_decode_invalid1F : decode [0b11111_110, 1, 2, 3, 4, 5, 6] = .instr (.invalid1F 6 ⟨1, 2, 3, 4, 5, 6⟩) := by decide

theorem test_decode_six_bytes : decode [0xD8, 0, 0, 0, 0, 0] = .wrongLength 6 := by decide
theorem test_decode_no_bytes : decode [] = .wrongLength 0 := by decide

/-- 95 S5: the word view, byte 0 in the low-order bits. -/
theorem test_table_word : decodeTableWord 56 0x04000200010008 = some (.gyroNc 0 ⟨0x00, 0x01, 0x00, 0x02, 0x00, 0x04⟩) := by decide

/-- 95 P2 row 1: `OTHER 4, 10 27 00 00 AA 55 rsv=5`. -/
theorem test_assemble_other :
    assemble (.other 4 [0x10, 0x27, 0x00, 0x00, 0xAA, 0x55] 5) = .ok [0x25, 0x10, 0x27, 0x00, 0x00, 0xAA, 0x55] := by decide

/-- 95 P1 row 1: `GYRO_NC 100, -200, 300`. -/
theorem test_assemble_gyro : assemble (.gyroNc 100 (-200) 300 0) = .ok [0x08, 0x64, 0x00, 0x38, 0xFF, 0x2C, 0x01] := by decide

/-! ### The classifier (95 V1) -/

theorem test_classify_tag_07 : classify (tagCode 0x07) = .ok .empty := by decide
theorem test_classify_tag_0B : classify (tagCode 0x0B) = .ok .gyroscopeNC := by decide
theorem test_classify_tag_17 : classify (tagCode 0x17) = .ok .accelerometerNC := by decide
theorem test_classify_tag_CF : classify (tagCode 0xCF) = .ok (.other 0x19) := by decide
theorem test_classify_tag_D0 : classify (tagCode 0xD0) = .invalidTag := by decide
theorem test_classify_byte_255 : classifyByte 255 = .invalidTag := by decide

/-! ### Numerics (95 V2 to V6) -/

theorem test_unpack_mixed : unpack16 ⟨0x34, 0x12, 0x78, 0x56, 0xBC, 0x9A⟩ = ⟨4660, 22136, -25924⟩ := by decide
theorem test_unpack_extremes : unpack16 ⟨0xFF, 0x7F, 0x00, 0x80, 0xFF, 0xFF⟩ = ⟨32767, -32768, -1⟩ := by decide
theorem test_i2f_12345 : i2f 12345 = 0x40C81C8000000000 := by decide
theorem test_i2f_least : i2f (-32768) = 0xC0E0000000000000 := by decide
theorem test_scale_inexact : scaleLane 0 (-200) 0x3F81EB851EB851EC = 0xBFFC000000000001 := by decide
theorem test_scale_tie_to_even_up : scaleLane 0 3 0x3FF0000000000001 = 0x4008000000000002 := by decide
theorem test_scale_tie_to_even_down : scaleLane 0 (-3) 0x3FF0000000000003 = 0xC008000000000004 := by decide
theorem test_scale_subnormal : scaleLane 0 3 0x000FFFFFFFFFFFFF = 0x0027FFFFFFFFFFFE := by decide
theorem test_scale_below_overflow : scaleLane 0 32767 0x7F00000000000000 = 0x7FEFFFC000000000 := by decide
theorem test_scale_overflow : scaleLane 0 32767 0x7F00008000000000 = 0x7FF0000000000000 := by decide
theorem test_scale_minus_zero : scaleLane 0 (-5) 0 = 0x8000000000000000 := by decide
theorem test_scale_zero_times_inf : f64IsNaN (scaleLane 0 0 inf) = true := by decide
theorem test_scale_signalling_nan : f64IsNaN (scaleLane 0xFFF0000000000123 (-3) 0x7FF0000000000001) = true := by decide

/-! ### Whole pops, one step (95 V8, V9, P2) -/

theorem test_empty_noise : popOf aNaN aNaN [0x07, 0xFF, 0xFF, 0xFF, 0xFF, 0xFF, 0xFF] = some (.ok .empty) := by decide
theorem test_gyro_row_2 : popOf one aNaN [0x08, 0x00, 0x01, 0x00, 0x02, 0x00, 0x04] =
    some (.ok (.gyro ⟨0x4070000000000000, 0x4080000000000000, 0x4090000000000000⟩)) := by decide
theorem test_gyro_all_zero : popOf one aNaN [0x08, 0, 0, 0, 0, 0, 0] = some (.ok (.gyro ⟨0, 0, 0⟩)) := by decide
theorem test_accel_row_4 : popOf aNaN 0x3FE0000000000000 [0x10, 0xFF, 0xFF, 0x00, 0x80, 0xFF, 0x7F] =
    some (.ok (.accel ⟨0xBFE0000000000000, 0xC0D0000000000000, 0x40CFFFC000000000⟩)) := by decide
theorem test_accel_row_5 : popOf aNaN 0x3F0FFB480A5ACCD5 [0x16, 0x34, 0x12, 0x00, 0x00, 0xFE, 0xFF] =
    some (.ok (.accel ⟨0x3FD23150DAE3E6C5, 0x0000000000000000, 0xBF1FFB480A5ACCD5⟩)) := by decide
theorem test_pop_other03 : popOf 0 aNaN [0x1B, 0x11, 0x22, 0x33, 0x44, 0x55, 0x66] =
    some (.ok (.other 0x03 ⟨0x11, 0x22, 0x33, 0x44, 0x55, 0x66⟩)) := by decide
theorem test_pop_other04 : popOf 0 aNaN [0x24, 0x11, 0x22, 0x33, 0x44, 0x55, 0x66] =
    some (.ok (.other 0x04 ⟨0x11, 0x22, 0x33, 0x44, 0x55, 0x66⟩)) := by decide
theorem test_pop_other05 : popOf 0 aNaN [0x2D, 0x11, 0x22, 0x33, 0x44, 0x55, 0x66] =
    some (.ok (.other 0x05 ⟨0x11, 0x22, 0x33, 0x44, 0x55, 0x66⟩)) := by decide
theorem test_pop_other06 : popOf 0 aNaN [0x36, 0x11, 0x22, 0x33, 0x44, 0x55, 0x66] =
    some (.ok (.other 0x06 ⟨0x11, 0x22, 0x33, 0x44, 0x55, 0x66⟩)) := by decide
theorem test_pop_other07 : popOf 0 aNaN [0x3F, 0x11, 0x22, 0x33, 0x44, 0x55, 0x66] =
    some (.ok (.other 0x07 ⟨0x11, 0x22, 0x33, 0x44, 0x55, 0x66⟩)) := by decide
theorem test_pop_other08 : popOf 0 aNaN [0x40, 0x11, 0x22, 0x33, 0x44, 0x55, 0x66] =
    some (.ok (.other 0x08 ⟨0x11, 0x22, 0x33, 0x44, 0x55, 0x66⟩)) := by decide
theorem test_pop_other09 : popOf 0 aNaN [0x49, 0x11, 0x22, 0x33, 0x44, 0x55, 0x66] =
    some (.ok (.other 0x09 ⟨0x11, 0x22, 0x33, 0x44, 0x55, 0x66⟩)) := by decide
theorem test_pop_other0A : popOf 0 aNaN [0x52, 0x11, 0x22, 0x33, 0x44, 0x55, 0x66] =
    some (.ok (.other 0x0A ⟨0x11, 0x22, 0x33, 0x44, 0x55, 0x66⟩)) := by decide
theorem test_pop_other0B : popOf 0 aNaN [0x5B, 0x11, 0x22, 0x33, 0x44, 0x55, 0x66] =
    some (.ok (.other 0x0B ⟨0x11, 0x22, 0x33, 0x44, 0x55, 0x66⟩)) := by decide
theorem test_pop_other0C : popOf 0 aNaN [0x64, 0x11, 0x22, 0x33, 0x44, 0x55, 0x66] =
    some (.ok (.other 0x0C ⟨0x11, 0x22, 0x33, 0x44, 0x55, 0x66⟩)) := by decide
theorem test_pop_other0D : popOf 0 aNaN [0x6D, 0x11, 0x22, 0x33, 0x44, 0x55, 0x66] =
    some (.ok (.other 0x0D ⟨0x11, 0x22, 0x33, 0x44, 0x55, 0x66⟩)) := by decide
theorem test_pop_other0E : popOf 0 aNaN [0x76, 0x11, 0x22, 0x33, 0x44, 0x55, 0x66] =
    some (.ok (.other 0x0E ⟨0x11, 0x22, 0x33, 0x44, 0x55, 0x66⟩)) := by decide
theorem test_pop_other0F : popOf 0 aNaN [0x7F, 0x11, 0x22, 0x33, 0x44, 0x55, 0x66] =
    some (.ok (.other 0x0F ⟨0x11, 0x22, 0x33, 0x44, 0x55, 0x66⟩)) := by decide
theorem test_pop_other10 : popOf 0 aNaN [0x80, 0x11, 0x22, 0x33, 0x44, 0x55, 0x66] =
    some (.ok (.other 0x10 ⟨0x11, 0x22, 0x33, 0x44, 0x55, 0x66⟩)) := by decide
theorem test_pop_other11 : popOf 0 aNaN [0x89, 0x11, 0x22, 0x33, 0x44, 0x55, 0x66] =
    some (.ok (.other 0x11 ⟨0x11, 0x22, 0x33, 0x44, 0x55, 0x66⟩)) := by decide
theorem test_pop_other12 : popOf 0 aNaN [0x92, 0x11, 0x22, 0x33, 0x44, 0x55, 0x66] =
    some (.ok (.other 0x12 ⟨0x11, 0x22, 0x33, 0x44, 0x55, 0x66⟩)) := by decide
theorem test_pop_other13 : popOf 0 aNaN [0x9B, 0x11, 0x22, 0x33, 0x44, 0x55, 0x66] =
    some (.ok (.other 0x13 ⟨0x11, 0x22, 0x33, 0x44, 0x55, 0x66⟩)) := by decide
theorem test_pop_other14 : popOf 0 aNaN [0xA4, 0x11, 0x22, 0x33, 0x44, 0x55, 0x66] =
    some (.ok (.other 0x14 ⟨0x11, 0x22, 0x33, 0x44, 0x55, 0x66⟩)) := by decide
theorem test_pop_other15 : popOf 0 aNaN [0xAD, 0x11, 0x22, 0x33, 0x44, 0x55, 0x66] =
    some (.ok (.other 0x15 ⟨0x11, 0x22, 0x33, 0x44, 0x55, 0x66⟩)) := by decide
theorem test_pop_other16 : popOf 0 aNaN [0xB6, 0x11, 0x22, 0x33, 0x44, 0x55, 0x66] =
    some (.ok (.other 0x16 ⟨0x11, 0x22, 0x33, 0x44, 0x55, 0x66⟩)) := by decide
theorem test_pop_other17 : popOf 0 aNaN [0xBF, 0x11, 0x22, 0x33, 0x44, 0x55, 0x66] =
    some (.ok (.other 0x17 ⟨0x11, 0x22, 0x33, 0x44, 0x55, 0x66⟩)) := by decide
theorem test_pop_other18 : popOf 0 aNaN [0xC0, 0x11, 0x22, 0x33, 0x44, 0x55, 0x66] =
    some (.ok (.other 0x18 ⟨0x11, 0x22, 0x33, 0x44, 0x55, 0x66⟩)) := by decide
theorem test_pop_other19 : popOf 0 aNaN [0xC9, 0x11, 0x22, 0x33, 0x44, 0x55, 0x66] =
    some (.ok (.other 0x19 ⟨0x11, 0x22, 0x33, 0x44, 0x55, 0x66⟩)) := by decide
theorem test_pop_invalid1A : popOf one one [0xD2, 1, 2, 3, 4, 5, 6] = some (.err .invalidTag) := by decide
theorem test_pop_invalid1B : popOf one one [0xDB, 1, 2, 3, 4, 5, 6] = some (.err .invalidTag) := by decide
theorem test_pop_invalid1C : popOf one one [0xE4, 1, 2, 3, 4, 5, 6] = some (.err .invalidTag) := by decide
theorem test_pop_invalid1D : popOf one one [0xED, 1, 2, 3, 4, 5, 6] = some (.err .invalidTag) := by decide
theorem test_pop_invalid1E : popOf one one [0xF6, 1, 2, 3, 4, 5, 6] = some (.err .invalidTag) := by decide
theorem test_pop_invalid1F : popOf one one [0xFF, 1, 2, 3, 4, 5, 6] = some (.err .invalidTag) := by decide

theorem test_transport_error (e : TErr) :
    resultOf (waiting one one [.rsp (.err e)]) = some (.err (.transport e)) := rfl
theorem test_six_bytes_fault : step (waiting one one [.rsp (.ok [0xD8, 0, 0, 0, 0, 0])]) = .fault .lengthViolation := rfl
theorem test_foreign_access_refused : step (waiting one one [.foreign]) = .refused .foreignAccess := rfl
theorem test_issue_captures_scales (gs acs : F64) : step (idling [.cmd gs acs]) =
    .next { waiting gs acs [] with trace := [.req ⟨Config.devAddr, 0x78, 7⟩, .cmd gs acs] } := rfl
theorem test_reset_in_wait : step (waiting one one [.reset]) =
    .next { State.reset with abandoned := 1, trace := [.reset] } := rfl
theorem test_reset_does_nothing_alone : step State.reset = .next State.reset := rfl

/-- The first step after an entry has been placed in the state after reset runs it. -/
theorem test_placed_entry_runs : resultOf (State.reset.withFetchWord 56 0x665544332211C8) =
    some (.ok (.other 0x19 ⟨0x11, 0x22, 0x33, 0x44, 0x55, 0x66⟩)) := by decide

/-! ### The result channel (95 V8 row 11) -/

theorem test_result_word_other (n : Nat) :
    (resultWord n (.ok (.other 0x19 ⟨0x11, 0x22, 0x33, 0x44, 0x55, 0x66⟩))).raw = 0x665544332211 := rfl

/-! ### Witnesses: for each obligation with hypotheses, concrete data that meet them, at the boundaries of their ranges -/

theorem witness_EncodeOfDecode : decode [0xFF, 1, 2, 3, 4, 5, 6] = .instr (.invalid1F 7 ⟨1, 2, 3, 4, 5, 6⟩) := by decide

theorem witness_OnlyLengthIsRejected :
    ([0x08, 0, 0, 0, 0, 0, 0] : List Byte).length = 7 ∧ ([0x08, 0, 0, 0, 0, 0] : List Byte).length ≠ 7 := by decide

theorem witness_ClassifierArms :
    ((0 : BitVec 5).toNat = 0 ∧ (1 : BitVec 5).toNat = 1 ∧ (2 : BitVec 5).toNat = 2 ∧ 3 ≤ (3 : BitVec 5).toNat ∧
      (25 : BitVec 5).toNat ≤ 25 ∧ 26 ≤ (26 : BitVec 5).toNat) ∧
    ((0x07 : Byte).toNat ≤ 0x07 ∧ 0x08 ≤ (0x08 : Byte).toNat ∧ (0x0F : Byte).toNat ≤ 0x0F ∧ 0x10 ≤ (0x10 : Byte).toNat ∧
      (0x17 : Byte).toNat ≤ 0x17 ∧ 0x18 ≤ (0x18 : Byte).toNat ∧ (0xCF : Byte).toNat ≤ 0xCF ∧ 0xD0 ≤ (0xD0 : Byte).toNat) := by
  decide

theorem witness_WideOperandClassifies : 32 ≤ (32 : Byte).toNat ∧ (31 : Byte).toNat < 32 := by decide

theorem witness_UnpackerIsBijection : laneInRange (-32768) ∧ laneInRange 32767 ∧ laneInRange 0 := by decide

theorem witness_IntegerConversionIsExact :
    (-32768 ≤ (-32768 : Int) ∧ (-32768 : Int) ≤ 32767 ∧ 2 ^ 15 ≤ (-32768 : Int).natAbs ∧ (-32768 : Int).natAbs < 2 ^ (15 + 1)) ∧
    (-32768 ≤ (32767 : Int) ∧ (32767 : Int) ≤ 32767 ∧ 2 ^ 14 ≤ (32767 : Int).natAbs ∧ (32767 : Int).natAbs < 2 ^ (14 + 1)) := by
  decide

theorem witness_MultiplySpecialOperands :
    f64IsNaN aNaN ∧ (f64IsInf inf ∧ f64IsZero 0) ∧ (f64IsInf inf ∧ ¬ f64IsNaN one ∧ ¬ f64IsZero one) ∧
    (f64IsZero 0 ∧ f64IsFinite one) := by decide

/-- 1.0 times 1.0 is below the overflow point; the largest finite number times 2.0 is not. -/
theorem witness_MultiplyRoundsToNearestEven :
    (f64IsFinite one ∧ ¬ f64IsZero one ∧ f64Mag one * f64Mag one < f64OverflowMag * f64UnitsPerOne) ∧
    (f64IsFinite 0x7FEFFFFFFFFFFFFF ∧ ¬ f64IsZero 0x7FEFFFFFFFFFFFFF ∧
      f64OverflowMag * f64UnitsPerOne ≤ f64Mag 0x7FEFFFFFFFFFFFFF * f64Mag 0x4000000000000000) := by decide +kernel

/-- 3 times the least subnormal. -/
theorem witness_ExactProductsAreDelivered :
    f64IsFinite 0x4008000000000000 ∧ f64IsFinite 1 ∧ f64IsFinite 3 ∧ ¬ f64IsZero 0x4008000000000000 ∧ ¬ f64IsZero 1 ∧
    f64Mag 3 * f64UnitsPerOne = f64Mag 0x4008000000000000 * f64Mag 1 ∧
    f64Neg 3 = (f64Neg 0x4008000000000000 ^^ f64Neg 1) := by decide +kernel

/-- A NaN operand on either side, an infinity times a zero on either side, and a NaN to be drawn. -/
theorem witness_NanDrawIsAnyNan :
    f64IsNaN aNaN ∧ (f64IsInf inf ∧ f64IsZero 0) ∧ (f64IsZero 0x8000000000000000 ∧ f64IsInf 0xFFF0000000000000) ∧
    f64IsNaN 0xFFF0000000000001 := by decide

theorem witness_ZeroLaneAndZeroScale :
    (f64IsFinite 0 ∧ f64Neg 0 = false) ∧ (f64IsFinite 0x8000000000000000 ∧ f64Neg 0x8000000000000000 = true) ∧
    ¬ f64IsFinite inf ∧ (-32768 ≤ (-1 : Int) ∧ (-1 : Int) ≤ 32767 ∧ (-1 : Int) ≠ 0) := by decide

theorem witness_InfiniteAndNanScale :
    f64IsNaN aNaN ∧ (-32768 ≤ (-32768 : Int) ∧ (-32768 : Int) < 0) ∧ ((0 : Int) < 32767 ∧ (32767 : Int) ≤ 32767) := by decide

theorem witness_ScalingNeverVanishes :
    -32768 ≤ (1 : Int) ∧ (1 : Int) ≤ 32767 ∧ (1 : Int) ≠ 0 ∧ f64IsFinite 1 ∧ ¬ f64IsZero 1 := by decide

theorem witness_ScalingByOneIsExact : -32768 ≤ (-32768 : Int) ∧ (32767 : Int) ≤ 32767 := by decide

/-- The tag bytes at both ends of a code's range, and a state in WAIT: the hypotheses of `selects` and `yields`, which the
statements of the five entry kinds are made of. -/
theorem witness_EntryKinds :
    (8 * 0x00 ≤ (0x00 : Byte).toNat ∧ (0x07 : Byte).toNat ≤ 8 * 0x00 + 7) ∧
    (8 * 0x01 ≤ (0x08 : Byte).toNat ∧ (0x0F : Byte).toNat ≤ 8 * 0x01 + 7) ∧
    (8 * 0x02 ≤ (0x10 : Byte).toNat ∧ (0x17 : Byte).toNat ≤ 8 * 0x02 + 7) ∧
    (8 * 0x03 ≤ (0x18 : Byte).toNat ∧ (0xCF : Byte).toNat ≤ 8 * 0x19 + 7) ∧
    (8 * 0x1A ≤ (0xD0 : Byte).toNat ∧ (0xFF : Byte).toNat ≤ 8 * 0x1F + 7) ∧
    (waiting one aNaN []).phase = .wait one aNaN := by decide

theorem witness_StepRunsDecodedEntry :
    (waiting one one [.rsp (.ok [0x00, 0, 0, 0, 0, 0, 0])]).phase = .wait one one ∧
    (waiting one one [.rsp (.ok [0x00, 0, 0, 0, 0, 0, 0])]).events = [.rsp (.ok [0x00, 0, 0, 0, 0, 0, 0])] ∧
    decode [0x00, 0, 0, 0, 0, 0, 0] = .instr (.empty 0 ⟨0, 0, 0, 0, 0, 0⟩) := ⟨rfl, rfl, rfl⟩

theorem witness_IssueSendsTheRequest :
    (idling [.cmd one aNaN]).phase = .idle ∧ (idling [.cmd one aNaN]).events = [.cmd one aNaN] := ⟨rfl, rfl⟩

theorem witness_CommandDuringOperationHasNoEffect :
    (waiting one one [.cmd inf inf]).phase = .wait one one ∧ (waiting one one [.cmd inf inf]).events = [.cmd inf inf] :=
  ⟨rfl, rfl⟩

theorem witness_TransportErrorVerbatim (e : TErr) :
    (waiting one one [.rsp (.err e)]).phase = .wait one one ∧ (waiting one one [.rsp (.err e)]).events = [.rsp (.err e)] :=
  ⟨rfl, rfl⟩

theorem witness_WrongLengthFaults :
    (waiting one one [.rsp (.ok [])]).phase = .wait one one ∧ (waiting one one [.rsp (.ok [])]).events = [.rsp (.ok [])] ∧
    ([] : List Byte).length ≠ 7 := ⟨rfl, rfl, by decide⟩

theorem witness_ImpossibleEventsRefused :
    (idling [.rsp (.ok [])]).phase = .idle ∧ (idling [.rsp (.ok [])]).events = [.rsp (.ok [])] ∧
    (idling [.late (.ok [])]).abandoned = 0 ∧ (idling [.late (.ok [])]).events = [.late (.ok [])] ∧
    (waiting one one [.foreign]).phase = .wait one one ∧ (waiting one one [.foreign]).events = [.foreign] :=
  ⟨rfl, rfl, rfl, rfl, rfl, rfl⟩

theorem witness_ResetAbandonsOperation :
    (idling [.reset]).events = [.reset] ∧ (idling [.reset]).phase = .idle ∧
    (waiting one one [.reset]).events = [.reset] ∧ (waiting one one [.reset]).phase = .wait one one := ⟨rfl, rfl, rfl, rfl⟩

/-- An abandoned request outstanding, in WAIT, answered with seven bytes that would decode. -/
theorem witness_LateAnswerIsDropped :
    0 < ({ waiting one one [.late (.ok [0x08, 1, 2, 3, 4, 5, 6])] with abandoned := 1 } : State).abandoned ∧
    ({ waiting one one [.late (.ok [0x08, 1, 2, 3, 4, 5, 6])] with abandoned := 1 } : State).events =
      [.late (.ok [0x08, 1, 2, 3, 4, 5, 6])] := ⟨by decide, rfl⟩

theorem witness_WaitHasNoEscape :
    ((waiting one one []).phase = .wait one one ∧ (waiting one one []).events = []) ∧
    (∃ t, step (waiting one one [.reset]) = .next t ∧ t.phase ≠ .wait one one) ∧
    ((∀ e ∈ (waiting one one [.cmd inf inf]).events, ¬ endsWait e) ∧ ∃ t, runSteps 3 (waiting one one [.cmd inf inf]) = .next t) :=
  ⟨⟨rfl, rfl⟩, ⟨_, rfl, by decide⟩, by decide, _, rfl⟩

/-- Nothing scripted; a foreign access; a step that leaves IDLE; a run of three steps without a command. -/
theorem witness_IdleWaitsForCommand :
    ((idling []).phase = .idle ∧ (idling []).events = []) ∧ (idling [.foreign]).events = [.foreign] ∧
    (∃ t, step (idling [.cmd one one]) = .next t ∧ t.phase ≠ .idle) ∧
    ((∀ e ∈ (idling [.foreign, .reset]).events, ¬ isCommand e) ∧ ∃ t, runSteps 3 (idling [.foreign, .reset]) = .next t) :=
  ⟨⟨rfl, rfl⟩, rfl, ⟨_, rfl, by decide⟩, by decide, _, rfl⟩

theorem witness_StepKeepsHistoryLegal :
    (idling [.cmd one one]).historyLegal ∧ ∃ t, step (idling [.cmd one one]) = .next t := ⟨rfl, _, rfl⟩

/-- A history of one completed pop and one abandoned by a reset is legal. -/
theorem witness_historyLegal_of_two_pops :
    State.historyLegal { State.reset with
      abandoned := 1, draws := 1,
      trace := [.reset, .req request, .cmd inf inf, .res (.ok .empty), .rsp (.ok [0x00, 0, 0, 0, 0, 0, 0]), .req request,
        .cmd one one] } := by
  simp only [State.historyLegal, replay, replayMessage, State.reset, Phase.stage, Option.bind_some, if_true]
  rw [if_pos (by decide)]
  simp only [replayMessage, Option.bind_some, if_true, Nat.zero_add]

theorem witness_PopDeliversPopResult :
    (idling [.cmd one one, .rsp (.ok [0xD8, 0, 0, 0, 0, 0, 0])]).phase = .idle ∧
    (idling [.cmd one one, .rsp (.ok [0xD8, 0, 0, 0, 0, 0, 0])]).events = [.cmd one one, .rsp (.ok [0xD8, 0, 0, 0, 0, 0, 0])] ∧
    popResult (.ok [0xD8, 0, 0, 0, 0, 0, 0]) one one 0 = some (.err .invalidTag) := ⟨rfl, rfl, by decide⟩

theorem witness_AdmissibleScriptsRunToTheEnd (e : TErr) :
    admissible (idling []).phase.waiting (idling []).abandoned
      [.foreign, .cmd one one, .cmd inf inf, .rsp (.err e), .cmd one one, .reset, .cmd one one, .late (.ok [0x08]),
        .rsp (.ok [0xFF, 0, 0, 0, 0, 0, 0])] = true := rfl

/-- An admissible script whose last pop is answered, and one whose last pop is not. -/
theorem witness_PopsEndIfTransportAnswers :
    (admissible true 0 [.reset, .cmd one one, .late (.ok []), .rsp (.ok [0x08, 0, 0, 0, 0, 0, 0])] = true ∧
      transportAnswers true [.reset, .cmd one one, .late (.ok []), .rsp (.ok [0x08, 0, 0, 0, 0, 0, 0])] = true) ∧
    (admissible false 0 [.cmd one one] = true ∧ transportAnswers false [.cmd one one] = false) := by decide

/-- All the premises of R185 together: with a reset and a late answer, and with two pops and no reset. -/
theorem witness_CommandsMatchResults :
    (startIdle (idling [.foreign, .cmd one one, .reset, .cmd one inf, .late (.ok []), .rsp (.ok [0x08, 0, 0, 0, 0, 0, 0])]) ∧
      admissible false 0 [.foreign, .cmd one one, .reset, .cmd one inf, .late (.ok []), .rsp (.ok [0x08, 0, 0, 0, 0, 0, 0])] ∧
      onePopAtATime false [.foreign, .cmd one one, .reset, .cmd one inf, .late (.ok []), .rsp (.ok [0x08, 0, 0, 0, 0, 0, 0])] ∧
      transportAnswers false
        [.foreign, .cmd one one, .reset, .cmd one inf, .late (.ok []), .rsp (.ok [0x08, 0, 0, 0, 0, 0, 0])]) ∧
    (admissible false 0 [.cmd one one, .rsp (.ok [0xD8, 0, 0, 0, 0, 0, 0]), .cmd one inf, .rsp (.ok [0, 0, 0, 0, 0, 0, 0])] ∧
      onePopAtATime false [.cmd one one, .rsp (.ok [0xD8, 0, 0, 0, 0, 0, 0]), .cmd one inf, .rsp (.ok [0, 0, 0, 0, 0, 0, 0])] ∧
      transportAnswers false
        [.cmd one one, .rsp (.ok [0xD8, 0, 0, 0, 0, 0, 0]), .cmd one inf, .rsp (.ok [0, 0, 0, 0, 0, 0, 0])] ∧
      ∀ e ∈ ([.cmd one one, .rsp (.ok [0xD8, 0, 0, 0, 0, 0, 0]), .cmd one inf, .rsp (.ok [0, 0, 0, 0, 0, 0, 0])] : List Event),
        e ≠ .reset) := by decide

/-- A second command during an operation breaks OnePopAtATime, a foreign access ExclusiveTransport, six bytes
TransportContract. -/
theorem test_premises_refuse :
    onePopAtATime false [.cmd one one, .cmd one one] = false ∧ exclusiveTransport false [.cmd one one, .foreign] = false ∧
    transportContract [.rsp (.ok [0, 0, 0, 0, 0, 0])] = false ∧ answersFollowRequests false 0 [.rsp (.ok [])] = false := by
  decide

theorem witness_ResultIndependentOfHistory :
    ∃ s t s' : State, s.phase = t.phase ∧ s.events = [.rsp (.ok [0x08, 0, 0, 0, 0, 0, 0])] ∧
      t.events = [.rsp (.ok [0x08, 0, 0, 0, 0, 0, 0])] ∧ s.draws ≠ t.draws ∧ s.trace ≠ t.trace ∧ step s = .next s' :=
  ⟨waiting inf inf [.rsp (.ok [0x08, 0, 0, 0, 0, 0, 0])],
    { waiting inf inf [.rsp (.ok [0x08, 0, 0, 0, 0, 0, 0])] with draws := 9, trace := [.reset] }, _,
    rfl, rfl, rfl, by decide, by decide, rfl⟩

theorem witness_MessagesOfAStep : ∃ s', step (waiting one one [.rsp (.ok [0x00, 0, 0, 0, 0, 0, 0])]) = .next s' := ⟨_, rfl⟩

theorem witness_ResultsAreWellFormed :
    popResult (.ok [0xCF, 1, 2, 3, 4, 5, 6]) one one 0 = some (.ok (.other 0x19 ⟨1, 2, 3, 4, 5, 6⟩)) := by decide

theorem witness_ResultChannelReadsBack : 6 ≤ (freeResWord 0 6).kind.toNat ∧ 6 ≤ (freeResWord 0 7).kind.toNat := by decide

theorem witness_AssembledLinesDecode :
    (Line.gyroNc (-32768) 32767 (-1) 7).wellFormed ∧ (Line.accelNc 0 0 16393 0).wellFormed ∧
    (Line.other 3 [0, 255, 0, 0, 0, 0] 0).wellFormed ∧ (Line.other 25 [0, 0, 0, 0, 0, 0] 7).wellFormed ∧
    (Line.invalid 26 0 [0, 0, 0, 0, 0, 0]).wellFormed ∧ (Line.invalid 31 7 [0, 0, 0, 0, 0, 0]).wellFormed ∧
    (Line.empty 3 [9, 9, 9, 9, 9, 9]).wellFormed := by decide

end Sys2Proof.Tests
end

section
/-! Proofs about the state: what a step reads of it, what leaves IDLE alone, and what a pop's result depends on. -/

namespace Sys2Proof.Machine

/-! ### Reset -/

/-- Settles O33: the fields of `State.reset` that make it a start. -/
theorem resetStateIsIdle : Obligations.ResetStateIsIdle := startIdle_reset

/-- Settles O34: the empty trace replays to the start, which is what the state after reset holds. -/
theorem historyLegalAtReset : Obligations.HistoryLegalAtReset := rfl

/-! ### What a pop yields -/

/-- The classifier passes a code through only unchanged, and only from 3 to 25 (R94). -/
theorem classify_eq_other (c d : BitVec 5) (h : classify c = .ok (.other d)) :
    d = c ∧ Param.tagOtherMin ≤ c ∧ c ≤ Param.tagMaxValid := by
  unfold classify at h
  split_ifs at h with _ _ _ hrange <;> cases h
  exact ⟨rfl, hrange⟩

/-- A result of R132 is a transport error passed on, or what the entry of a seven-byte response yields. -/
theorem popResult_cases (r : Response) (gs acs : F64) (n : Nat) (x : Result) (h : popResult r gs acs n = some x) :
    (∃ e, r = .err e ∧ x = .err (.transport e)) ∨
    (∃ bs b0 P, r = .ok bs ∧ splitEntry bs = some (b0, P) ∧ x = entryResult (tagCode b0) P gs acs n) := by
  cases r with
  | err e => exact .inl ⟨e, rfl, (Option.some.inj h).symm⟩
  | ok bs =>
    cases hs : splitEntry bs with
    | none => simp [popResult, hs] at h
    | some p =>
      obtain ⟨b0, P⟩ := p
      simp only [popResult, hs, Option.some.injEq] at h
      exact .inr ⟨bs, b0, P, rfl, hs, h.symm⟩

theorem entryResult_wellFormed (code : BitVec 5) (P : Payload) (gs acs : F64) (n : Nat) :
    resultWellFormed (entryResult code P gs acs n) = true := by
  unfold entryResult
  split
  case h_4 c hc =>
    obtain ⟨rfl, hmin, hmax⟩ := classify_eq_other code c hc
    simp [resultWellFormed, hmin, hmax]
  all_goals rfl

/-- Settles O41: a result carries a tag code only through the classifier's pass-through arm. -/
theorem resultsAreWellFormed : Obligations.ResultsAreWellFormed := by
  intro r gs acs n x h
  obtain ⟨e, -, rfl⟩ | ⟨bs, b0, P, -, -, rfl⟩ := popResult_cases r gs acs n x h
  · rfl
  · exact entryResult_wellFormed (tagCode b0) P gs acs n

/-! ### Results up to the bits of a NaN -/

@[simp] theorem sameF64_refl (a : F64) : sameF64 a a = true := by simp [sameF64]

@[simp] theorem sameF3_refl (v : F3) : sameF3 v v = true := by simp [sameF3]

@[simp] theorem sameResult_refl (x : Result) : sameResult x x = true := by
  unfold sameResult
  split
  case h_3 => exact beq_self_eq_true x
  all_goals simp_all

/-- A NaN has a full exponent field and some fraction bit. -/
theorem f64IsNaN_of_fields (b : F64) (hexp : b.extractLsb' 52 11 = 2047#11) (hfrac : b.extractLsb' 0 52 ≠ 0#52) :
    f64IsNaN b = true := by
  simp only [f64IsNaN, f64Exp, f64Frac, hexp, Bool.and_eq_true, beq_iff_eq, bne_iff_ne]
  exact ⟨rfl, fun h => hfrac (BitVec.eq_of_toNat_eq h)⟩

/-- Whatever the free bits, the draw of R111 is a NaN: the mask sets the whole exponent field and the quiet bit. -/
@[simp] theorem f64IsNaN_nanOf (raw : F64) : f64IsNaN (nanOf raw) = true := by
  unfold nanOf
  split
  · assumption
  · apply f64IsNaN_of_fields
    · ext i hi
      interval_cases i <;> simp
    · intro h
      simpa using congrArg (·.getLsbD 51) h

/-- The free bits of a product show only where it is a NaN (R104, R111). -/
theorem sameF64_fmul (raw raw' a b : F64) : sameF64 (fmul raw a b) (fmul raw' a b) = true := by
  simp only [fmul]
  split_ifs
  · simp [sameF64]
  · simp [sameF64]
  all_goals exact sameF64_refl _

/-- The number of the operation shows only in NaN components of its triple. -/
theorem sameF3_decode3 (m n : Nat) (P : Payload) (s : F64) : sameF3 (decode3 m P s) (decode3 n P s) = true := by
  simp [sameF3, decode3, scaleLane, sameF64_fmul]

theorem sameResult_entryResult (code : BitVec 5) (P : Payload) (gs acs : F64) (m n : Nat) :
    sameResult (entryResult code P gs acs m) (entryResult code P gs acs n) = true := by
  unfold entryResult
  split
  case h_2 => exact sameF3_decode3 m n P gs
  case h_3 => exact sameF3_decode3 m n P acs
  all_goals exact sameResult_refl _

/-- Whether a response has a result, and which one up to NaN bits, does not depend on the operation's number. -/
theorem popResult_of_other_draw (r : Response) (gs acs : F64) (m n : Nat) (x : Result)
    (h : popResult r gs acs m = some x) : ∃ y, popResult r gs acs n = some y ∧ sameResult x y = true := by
  obtain ⟨e, rfl, rfl⟩ | ⟨bs, b0, P, rfl, hs, rfl⟩ := popResult_cases r gs acs m x h
  · exact ⟨_, rfl, sameResult_refl _⟩
  · exact ⟨entryResult (tagCode b0) P gs acs n, by simp [popResult, hs], sameResult_entryResult _ _ _ _ _ _⟩

/-- A response in WAIT that has a result ends the operation with it. -/
theorem step_rsp_wait (s : State) (gs acs : F64) (r : Response) (es : List Event) (x : Result)
    (hp : s.phase = .wait gs acs) (he : s.events = .rsp r :: es) (hx : popResult r gs acs s.draws = some x) :
    step s = .next (deliver x ((s.continueWith es).observe (.rsp r))) := by
  rw [step_cons s _ es he, takeEvent, respond_wait r (s.continueWith es) gs acs hp]
  simp [hx]

/-- A response that is answered with a next state came in WAIT and had a result, which ended the operation. -/
theorem step_rsp_next (s s' : State) (r : Response) (es : List Event) (he : s.events = .rsp r :: es)
    (h : step s = .next s') :
    ∃ gs acs x, s.phase = .wait gs acs ∧ popResult r gs acs s.draws = some x ∧
      s' = deliver x ((s.continueWith es).observe (.rsp r)) := by
  rw [step_cons s _ es he] at h
  simpa using takeEvent_cases _ _ _ h

/-- Settles O38: in the same phase both operations have the same scales, so their results differ at most in the number of
the operation, which shows only in NaN bits. -/
theorem resultIndependentOfHistory : Obligations.ResultIndependentOfHistory := by
  intro s t s' r es fs hphase hs ht h
  obtain ⟨gs, acs, x, hp, hx, rfl⟩ := step_rsp_next s s' r es hs h
  obtain ⟨y, hy, hxy⟩ := popResult_of_other_draw r gs acs s.draws t.draws x hx
  exact ⟨_, x, y, step_rsp_wait t gs acs r fs y (hphase ▸ hp) ht hy, rfl, rfl, rfl, hxy⟩

/-! ### The trace is never read -/

/-- `s` with the record `ms` in place of its own. -/
def State.withTrace (ms : List Message) (s : State) : State := { s with trace := ms }

@[simp] theorem withTrace_draws (s : State) (ms : List Message) : (s.withTrace ms).draws = s.draws := rfl

/-- `o'` is what `o` becomes when the record `old` is exchanged for `ms`: the same stop, or the same next state with the same
messages added. -/
def Retraced (old ms : List Message) (o o' : Host.Outcome State Fault Refusal) : Prop :=
  match o with
  | .next s' => ∃ new, s'.trace = new ++ old ∧ o' = .next (s'.withTrace (new ++ ms))
  | .fault f => o' = .fault f
  | .refused f => o' = .refused f

theorem retraced_respond (r : Response) (s : State) (ms : List Message) :
    Retraced s.trace ms (respond r s) (respond r (s.withTrace ms)) := by
  cases hp : s.phase with
  | idle =>
    rw [respond_idle r s hp, respond_idle r (s.withTrace ms) hp]
    exact rfl
  | wait gs acs =>
    rw [respond_wait r s gs acs hp, respond_wait r (s.withTrace ms) gs acs hp, withTrace_draws]
    cases popResult r gs acs s.draws with
    | none => exact rfl
    | some x => exact ⟨[.res x, .rsp r], rfl, rfl⟩

theorem retraced_dropLate (r : Response) (s : State) (ms : List Message) :
    Retraced s.trace ms (dropLate r s) (dropLate r (s.withTrace ms)) := by
  obtain ⟨phase, abandoned, draws, events, trace⟩ := s
  cases abandoned with
  | zero => exact rfl
  | succ k => exact ⟨[.late r], rfl, rfl⟩

theorem retraced_takeEvent (e : Event) (s : State) (ms : List Message) :
    Retraced s.trace ms (takeEvent e s) (takeEvent e (s.withTrace ms)) := by
  cases e with
  | rsp r => exact retraced_respond r s ms
  | late r => exact retraced_dropLate r s ms
  | cmd gs acs =>
    obtain ⟨phase, abandoned, draws, events, trace⟩ := s
    cases phase with
    | idle => exact ⟨[.req request, .cmd gs acs], rfl, rfl⟩
    | wait _ _ => exact ⟨[], rfl, rfl⟩
  | reset =>
    obtain ⟨phase, abandoned, draws, events, trace⟩ := s
    cases phase with
    | idle => exact ⟨[.reset], rfl, rfl⟩
    | wait _ _ => exact ⟨[.reset], rfl, rfl⟩
  | foreign =>
    obtain ⟨phase, abandoned, draws, events, trace⟩ := s
    cases phase with
    | idle => exact ⟨[], rfl, rfl⟩
    | wait _ _ => exact rfl

theorem retraced_step (s : State) (ms : List Message) : Retraced s.trace ms (step s) (step (s.withTrace ms)) := by
  cases he : s.events with
  | nil =>
    rw [step_nil s he, step_nil (s.withTrace ms) he]
    exact ⟨[], rfl, rfl⟩
  | cons e es =>
    rw [step_cons s e es he, step_cons (s.withTrace ms) e es he]
    exact retraced_takeEvent e (s.continueWith es) ms

/-- Settles O39: no event's meaning looks at the record it adds to. -/
theorem traceIsNeverRead : Obligations.TraceIsNeverRead := retraced_step

/-! ### IDLE -/

theorem takeEvent_foreign_idle (s : State) (h : s.phase = .idle) : takeEvent .foreign s = .next s := by
  simp [takeEvent, foreignAccess, h]

/-- The part of a state that only a command may change in IDLE: the phase, the requests and the results so far. -/
def State.restsAs (s t : State) : Prop :=
  t.phase = .idle ∧ requestsOf t.trace = requestsOf s.trace ∧ resultsOf t.trace = resultsOf s.trace

/-- All that a step from IDLE can do: nothing is scripted, or a command is taken, or another event is, which leaves the block
at rest. -/
theorem step_idle_cases (s s' : State) (hp : s.phase = .idle) (h : step s = .next s') :
    (s.events = [] ∧ s' = s) ∨
    (∃ e es, s.events = e :: es ∧ isCommand e = true) ∨
    (∃ e, s.events = e :: s'.events ∧ s.restsAs s') := by
  obtain ⟨he, rfl⟩ | ⟨e, es, he, ht⟩ := step_next s s' h
  · exact .inl ⟨he, rfl⟩
  · obtain ⟨gs, acs, rfl, -, -⟩ | ⟨gs, acs, g, a, rfl, -, -⟩ | ⟨r, gs, acs, x, -, hw, -, -⟩ | ⟨r, k, rfl, -, rfl⟩ |
      ⟨rfl, rfl⟩ | ⟨rfl, -, rfl⟩ := takeEvent_cases e _ s' ht
    · exact .inr (.inl ⟨_, es, he, rfl⟩)
    · exact .inr (.inl ⟨_, es, he, rfl⟩)
    · simp [hp] at hw
    · exact .inr (.inr ⟨_, he, hp, rfl, rfl⟩)
    · refine .inr (.inr ⟨.reset, by simpa using he, hardReset_phase _, ?_, ?_⟩) <;> rw [hardReset_trace] <;> rfl
    · exact .inr (.inr ⟨_, he, hp, rfl, rfl⟩)

/-- A step from IDLE on a script without commands leaves the block at rest and a script without commands. -/
theorem step_idle_without_command (s s' : State) (hp : s.phase = .idle) (hc : ∀ e ∈ s.events, ¬ isCommand e)
    (h : step s = .next s') : s.restsAs s' ∧ ∀ e ∈ s'.events, ¬ isCommand e := by
  obtain ⟨-, rfl⟩ | ⟨e, es, he, hcmd⟩ | ⟨e, he, hrest⟩ := step_idle_cases s s' hp h
  · exact ⟨⟨hp, rfl, rfl⟩, hc⟩
  · exact absurd hcmd (hc e (by simp [he]))
  · exact ⟨hrest, fun f hf => hc f (by simp [he, hf])⟩

theorem runSteps_idle_without_command (n : Nat) (s t : State) (hp : s.phase = .idle)
    (hc : ∀ e ∈ s.events, ¬ isCommand e) (h : runSteps n s = .next t) : s.restsAs t := by
  induction n generalizing s with
  | zero =>
    cases h
    exact ⟨hp, rfl, rfl⟩
  | succ n ih =>
    obtain ⟨s', hs, hrun⟩ := runSteps_succ_next n s t h
    obtain ⟨⟨hp', hreq, hres⟩, hc'⟩ := step_idle_without_command s s' hp hc hs
    obtain ⟨hpt, hreqt, hrest⟩ := ih s' hp' hc' hrun
    exact ⟨hpt, hreqt.trans hreq, hrest.trans hres⟩

/-- Settles O44, by the cases of a step from IDLE and, for a run, by induction on its length. -/
theorem idleWaitsForCommand : Obligations.IdleWaitsForCommand := by
  refine ⟨fun s _ he => step_nil s he, fun s es hp he => ?_, fun s s' hp h hne => ?_, runSteps_idle_without_command⟩
  · rw [step_cons s _ es he]
    exact takeEvent_foreign_idle (s.continueWith es) hp
  · obtain ⟨-, rfl⟩ | hcmd | ⟨e, -, hp', -⟩ := step_idle_cases s s' hp h
    · exact absurd hp hne
    · exact hcmd
    · exact absurd hp' hne

end Sys2Proof.Machine
end

section
/-! Proofs about the Transport's side: which responses are entries, and what a step may send. -/

/-! ### The length of a response -/

namespace Sys2Proof

/-- A response of seven bytes is an entry, whatever its bytes are: its row is that of its tag code (R68, R70). -/
theorem decode_of_length (bs : List Byte) (h : bs.length = 7) :
    ∃ b0 P, decode bs = .instr (Instr.ofTagCode (tagCode b0) (reservedBits b0) P) := by
  obtain ⟨b0, P, hs, -⟩ := splitEntry_of_length bs h
  exact ⟨b0, P, by simp only [decode, hs]⟩

/-- A response of any other length is rejected with its length (R45). -/
theorem decode_of_length_ne (bs : List Byte) (h : bs.length ≠ 7) : decode bs = .wrongLength bs.length := by
  simp only [decode, splitEntry_eq_none bs h]

/-- Settles O4: a list splits into a tag byte and a payload exactly when its length is 7, and every tag code has a row. -/
theorem onlyLengthIsRejected : Obligations.OnlyLengthIsRejected := by
  refine fun bs => ⟨fun h => ?_, decode_of_length_ne bs⟩
  obtain ⟨b0, P, hd⟩ := decode_of_length bs h
  exact ⟨_, hd⟩

end Sys2Proof

namespace Sys2Proof.Machine

/-- A successful response of other than seven bytes has no result (R143). -/
theorem popResult_of_length_ne (bs : List Byte) (gs acs : F64) (n : Nat) (h : bs.length ≠ 7) :
    popResult (.ok bs) gs acs n = none := by
  simp only [popResult, splitEntry_eq_none bs h]

/-- Settles O28: such a response has no result, and in WAIT that is the fault. -/
theorem wrongLengthFaults : Obligations.WrongLengthFaults := by
  intro s gs acs bs es hp he hlen
  rw [step_cons s _ es he, takeEvent, respond_wait (.ok bs) (s.continueWith es) gs acs hp,
    popResult_of_length_ne bs gs acs _ hlen]

/-! ### Requests and results of one step -/

/-- Settles O40, by the cases of a step: only an accepted command adds to the requests, with `request`, and only a response
in WAIT adds to the results, with its `popResult`; the other messages are neither. -/
theorem messagesOfAStep : Obligations.MessagesOfAStep := by
  intro s s' h
  obtain ⟨-, rfl⟩ | ⟨e, es, he, ht⟩ := step_next s s' h
  · exact ⟨.inl rfl, .inl rfl⟩
  · obtain ⟨gs, acs, rfl, hp, rfl⟩ | ⟨gs, acs, g, a, -, -, rfl⟩ | ⟨r, gs, acs, x, rfl, hp, hx, rfl⟩ |
      ⟨r, k, -, -, rfl⟩ | ⟨-, rfl⟩ | ⟨-, -, rfl⟩ := takeEvent_cases e _ s' ht
    · exact ⟨.inr ⟨hp, ⟨gs, acs, es, he⟩, rfl⟩, .inl rfl⟩
    · exact ⟨.inl rfl, .inl rfl⟩
    · exact ⟨.inl rfl, .inr ⟨gs, acs, r, es, x, hp, he, hx, rfl⟩⟩
    · exact ⟨.inl rfl, .inl rfl⟩
    · rw [hardReset_trace]
      exact ⟨.inl rfl, .inl rfl⟩
    · exact ⟨.inl rfl, .inl rfl⟩

end Sys2Proof.Machine
end

section
/-! Proofs about encodings: entries and their bytes, assembled lines, the words of the result channel, and the messages of a
history. -/

namespace Sys2Proof

/-! ### Entries -/

/-- Settles O1: each list splits into a tag byte, whose code has its row, and six payload bytes. -/
theorem writtenEntriesDecode : Obligations.WrittenEntriesDecode := ⟨rfl, rfl, rfl, rfl, rfl⟩

/-- An instruction is the row of its tag code with its own reserved bits and payload (R68). -/
theorem ofTagCode_fields (i : Instr) : Instr.ofTagCode i.tagCode i.rsv i.payload = i := by cases i <;> rfl

/-- A tag byte before a payload is an entry of the row that its tag code selects (R64, R68). -/
theorem decode_cons_bytes (b0 : Byte) (P : Payload) :
    decode (b0 :: P.bytes) = .instr (Instr.ofTagCode (tagCode b0) (reservedBits b0) P) := rfl

theorem decode_tagByte_cons_bytes (code : BitVec 5) (rsv : BitVec 3) (P : Payload) :
    decode (tagByte code rsv :: P.bytes) = .instr (Instr.ofTagCode code rsv P) := by
  rw [decode_cons_bytes, tagCode_tagByte, reservedBits_tagByte]

theorem encode_ofTagCode (code : BitVec 5) (rsv : BitVec 3) (P : Payload) :
    encode (Instr.ofTagCode code rsv P) = tagByte code rsv :: P.bytes := by
  simp only [encode, ofTagCode_tagCode, ofTagCode_rsv, ofTagCode_payload]

/-- Settles O2: the decoder takes the tag byte apart into the fields it was made of, and they determine the instruction. -/
theorem decodeOfEncode : Obligations.DecodeOfEncode := by
  intro i
  rw [encode, decode_tagByte_cons_bytes, ofTagCode_fields]

/-- Settles O3: only seven bytes decode, and the tag byte is the one made of its own fields. -/
theorem encodeOfDecode : Obligations.EncodeOfDecode := by
  intro bs i h
  by_cases hlen : bs.length = 7
  · obtain ⟨b0, P, -, rfl⟩ := splitEntry_of_length bs hlen
    rw [decode_cons_bytes, Decoded.instr.injEq] at h
    rw [← h, encode_ofTagCode, tagByte_fields]
  · rw [decode_of_length_ne bs hlen] at h
    cases h

theorem tagCode_toNat (b : Byte) : (tagCode b).toNat = b.toNat / 8 := by
  have := b.isLt
  simp [tagCode, Param.tagShift, Nat.shiftRight_eq_div_pow]
  omega

theorem reservedBits_toNat (b : Byte) : (reservedBits b).toNat = b.toNat % 8 := BitVec.toNat_setWidth 3 b

/-- Settles O5: the row has the tag code that selected it and carries the other bits unread. -/
theorem tagCodeSelectsRow : Obligations.TagCodeSelectsRow := by
  intro b0 P
  refine ⟨_, decode_cons_bytes b0 P, ?_, ?_, ofTagCode_payload _ _ P⟩
  · rw [ofTagCode_tagCode, tagCode_toNat]
  · rw [ofTagCode_rsv, reservedBits_toNat]

end Sys2Proof

namespace Sys2Proof.Machine

/-! ### Assembled lines -/

/-- A lane value is the two's complement value of its 16 bits (R101, R102). -/
theorem s16_ofInt (n : Int) (h : laneInRange n = true) : s16 (BitVec.ofInt 16 n) = n := by
  obtain ⟨hlo, hhi⟩ := (laneInRange_iff n).mp h
  rw [s16_eq_toInt, BitVec.toInt_ofInt]
  exact Int.bmod_eq_of_le (by omega) (by omega)

/-- The lanes packed into a payload are the lanes it unpacks to (R77, R101). -/
theorem unpack16_pack16 (x y z : Int) (hx : laneInRange x = true) (hy : laneInRange y = true) (hz : laneInRange z = true) :
    unpack16 (pack16 ⟨x, y, z⟩) = ⟨x, y, z⟩ := by
  simp only [unpack16, pack16, le16_of_bytes, s16_ofInt x hx, s16_ofInt y hy, s16_ofInt z hz]

/-- Six numbers below 256 are the bytes of a payload. -/
theorem exists_payload_of_numbers (pay : List Nat) (hlen : pay.length = 6) (hlt : ∀ b ∈ pay, b < 256) :
    ∃ P : Payload, pay.map (BitVec.ofNat 8) = P.bytes ∧ P.bytes.map BitVec.toNat = pay := by
  have hback : (pay.map (BitVec.ofNat 8)).map BitVec.toNat = pay := by
    rw [List.map_map]
    exact (List.map_congr_left fun b hb => Nat.mod_eq_of_lt (hlt b hb)).trans pay.map_id
  match pay, hlen with
  | [b0, b1, b2, b3, b4, b5], _ => exact ⟨⟨_, _, _, _, _, _⟩, rfl, hback⟩

theorem lineFieldsFit_iff (rsv : Nat) (pay : List Nat) :
    lineFieldsFit rsv pay = true ↔ rsv < 8 ∧ pay.length = 6 ∧ ∀ b ∈ pay, b < 256 := by
  simp [lineFieldsFit, Param.payloadLen, and_assoc]

/-- The bytes that an `OTHER`, `INVALID` or `EMPTY` line assembles to decode to the row of its code, with its reserved bits
and bytes (R77). -/
theorem decode_of_line_numbers (c rsv : Nat) (pay : List Nat) (hc : c < 32) (h : lineFieldsFit rsv pay = true) :
    ∃ i, decode (tagByte (BitVec.ofNat 5 c) (BitVec.ofNat 3 rsv) :: pay.map (BitVec.ofNat 8)) = .instr i ∧
      i.tagCode.toNat = c ∧ i.rsv.toNat = rsv ∧ i.payload.bytes.map BitVec.toNat = pay := by
  obtain ⟨hrsv, hlen, hlt⟩ := (lineFieldsFit_iff rsv pay).mp h
  obtain ⟨P, hbytes, hback⟩ := exists_payload_of_numbers pay hlen hlt
  rw [hbytes, decode_tagByte_cons_bytes]
  refine ⟨_, rfl, ?_, ?_, ?_⟩
  · rw [ofTagCode_tagCode, BitVec.toNat_ofNat, Nat.mod_eq_of_lt hc]
  · rw [ofTagCode_rsv, BitVec.toNat_ofNat, Nat.mod_eq_of_lt hrsv]
  · rw [ofTagCode_payload, hback]

/-- Settles O43: a lane line's payload is its packed lanes, and the lines of numbers share one argument. -/
theorem assembledLinesDecode : Obligations.AssembledLinesDecode := by
  refine ⟨fun x y z rsv h => ?_, fun x y z rsv h => ?_, fun c rsv pay h => ?_, fun c rsv pay h => ?_,
    fun rsv pay h => ?_, fun e => rfl⟩
  · simp only [Line.wellFormed, Bool.and_eq_true] at h
    obtain ⟨⟨⟨hx, hy⟩, hz⟩, -⟩ := h
    exact ⟨_, unpack16_pack16 x y z hx hy hz, _, rfl, decode_tagByte_cons_bytes 1 _ _⟩
  · simp only [Line.wellFormed, Bool.and_eq_true] at h
    obtain ⟨⟨⟨hx, hy⟩, hz⟩, -⟩ := h
    exact ⟨_, unpack16_pack16 x y z hx hy hz, _, rfl, decode_tagByte_cons_bytes 2 _ _⟩
  · simp only [Line.wellFormed, Bool.and_eq_true, decide_eq_true_eq] at h
    obtain ⟨⟨-, hc⟩, hfit⟩ := h
    obtain ⟨i, hi⟩ := decode_of_line_numbers c rsv pay (by omega) hfit
    exact ⟨_, i, rfl, hi⟩
  · simp only [Line.wellFormed, Bool.and_eq_true, decide_eq_true_eq] at h
    obtain ⟨⟨-, hc⟩, hfit⟩ := h
    obtain ⟨i, hi⟩ := decode_of_line_numbers c rsv pay (by omega) hfit
    exact ⟨_, i, rfl, hi⟩
  · obtain ⟨i, hi⟩ := decode_of_line_numbers 0 rsv pay (by omega) h
    exact ⟨_, i, rfl, hi⟩

/-! ### The result channel -/

/-- Byte `j` of a payload stands in bits `8j+7` to `8j` of `raw` (R73). The widths stay unevaluated sums, or the rules for `++`
do not match. -/
theorem packRaw_byte (P : Payload) (j : Fin 6) : (packRaw P).extractLsb' (8 * j) 8 = P.bytes.getD j 0 := by
  rw [packRaw]
  fin_cases j <;>
    simp [Payload.bytes, BitVec.extractLsb'_append_eq_of_le, BitVec.extractLsb'_append_eq_of_add_le, -Nat.reduceAdd]

theorem unpackRaw_packRaw (P : Payload) : unpackRaw (packRaw P) = P := by
  obtain ⟨p0, p1, p2, p3, p4, p5⟩ := P
  rw [unpackRaw, Payload.mk.injEq]
  exact ⟨packRaw_byte _ 0, packRaw_byte _ 1, packRaw_byte _ 2, packRaw_byte _ 3, packRaw_byte _ 4, packRaw_byte _ 5⟩

/-- A word of each kind reads back as its result; the fields that its kind leaves undefined are not read. -/
theorem readResWord_resultWord (n : Nat) (x : Result) : readResWord (resultWord n x) = some x := by
  match x with
  | .ok .empty => rfl
  | .ok (.gyro v) => rfl
  | .ok (.accel v) => rfl
  | .ok (.other c P) => exact congrArg (fun Q => some (Result.ok (.other c Q))) (unpackRaw_packRaw P)
  | .err (.transport e) => rfl
  | .err .invalidTag => rfl

theorem resultWord_kind_le (n : Nat) (x : Result) : (resultWord n x).kind.toNat ≤ 5 := by
  obtain (_ | _ | _ | _) | (_ | _) := x <;> exact Nat.le_of_ble_eq_true rfl

theorem readResWord_of_kind_ge (w : ResWord) (h : 6 ≤ w.kind.toNat) : readResWord w = none := by
  have hlt := w.kind.isLt
  obtain h6 | h7 : w.kind.toNat = 6 ∨ w.kind.toNat = 7 := by omega
  · simp only [readResWord, h6]
  · simp only [readResWord, h7]

/-- Settles O42: the fields of each word are those of its result by definition, the bytes of `raw` by `packRaw_byte`. -/
theorem resultChannelReadsBack : Obligations.ResultChannelReadsBack :=
  ⟨fun n x => ⟨readResWord_resultWord n x, resultWord_kind_le n x⟩,
    fun _ => rfl,
    fun _ _ => ⟨rfl, rfl, rfl, rfl⟩,
    fun _ _ => ⟨rfl, rfl, rfl, rfl⟩,
    fun _ _ P => ⟨rfl, rfl, packRaw_byte P⟩,
    fun _ _ => ⟨rfl, rfl⟩,
    fun _ => rfl,
    readResWord_of_kind_ge⟩

/-! ### Histories -/

/-- An accepted command adds itself and the one request, which is a legal continuation in IDLE. -/
theorem historyLegal_issue (s : State) (gs acs : F64) (h : s.historyLegal) (hp : s.phase = .idle) :
    (issue gs acs s).historyLegal := by
  rw [State.historyLegal, hp] at h
  rw [State.historyLegal, issue_trace, replay, replay_cons _ _ _ h]
  simp [replayMessage, Phase.stage]

/-- A response in WAIT and the result that R132 gives to it end the operation. -/
theorem historyLegal_deliver (s : State) (r : Response) (gs acs : F64) (x : Result) (h : s.historyLegal)
    (hp : s.phase = .wait gs acs) (hx : popResult r gs acs s.draws = some x) :
    (deliver x (s.observe (.rsp r))).historyLegal := by
  rw [State.historyLegal, hp] at h
  rw [State.historyLegal, deliver_trace, observe_trace, replay, replay_cons _ _ _ h]
  simp [replayMessage, Phase.stage, hx]

/-- A late answer to an abandoned request may stand in both phases. -/
theorem historyLegal_late (s : State) (r : Response) (k : Nat) (h : s.historyLegal) (hk : s.abandoned = k + 1) :
    State.historyLegal { s with abandoned := k, trace := .late r :: s.trace } := by
  rw [State.historyLegal, hk] at h
  rw [State.historyLegal, replay_cons _ _ _ h]
  cases hp : s.phase with
  | idle => rfl
  | wait gs acs => rfl

/-- A reset may stand in both phases; in WAIT it abandons the request. -/
theorem historyLegal_hardReset (s : State) (h : s.historyLegal) : (hardReset s).historyLegal := by
  rw [State.historyLegal] at h
  rw [State.historyLegal, hardReset_trace, replay_cons _ _ _ h]
  cases hp : s.phase with
  | idle => rw [hardReset_idle s hp, observe_phase, hp]; rfl
  | wait gs acs => rw [hardReset_wait s gs acs hp]; rfl

/-- Settles O35, by the cases of a step: each adds the messages that the step relation allows next, or none. -/
theorem stepKeepsHistoryLegal : Obligations.StepKeepsHistoryLegal := by
  intro s s' h hstep
  obtain ⟨-, rfl⟩ | ⟨e, es, -, ht⟩ := step_next s s' hstep
  · exact h
  · obtain ⟨gs, acs, -, hp, rfl⟩ | ⟨gs, acs, g, a, -, -, rfl⟩ | ⟨r, gs, acs, x, -, hp, hx, rfl⟩ |
      ⟨r, k, -, hk, rfl⟩ | ⟨-, rfl⟩ | ⟨-, -, rfl⟩ := takeEvent_cases e _ s' ht
    · exact historyLegal_issue _ gs acs h hp
    · exact h
    · exact historyLegal_deliver _ r gs acs x h hp hx
    · exact historyLegal_late _ r k h hk
    · exact historyLegal_hardReset _ h
    · exact h

end Sys2Proof.Machine
end

section
/-! Proofs about the tag classifier: which answer each tag code has, and the tag bytes that carry the code. -/

namespace Sys2Proof

/-- The tag code as a value: the tag byte divided by 8 (R64). -/
theorem tagCode_eq_ofNat (b : Byte) : tagCode b = BitVec.ofNat 5 (b.toNat / 8) := by
  rw [← tagCode_toNat, BitVec.ofNat_toNat, BitVec.setWidth_eq]

end Sys2Proof

namespace Sys2Proof.Machine

/-- R90's table, on the number that the 5 wires carry. -/
theorem classify_eq_by_toNat (c : BitVec 5) :
    classify c =
      if c.toNat = 0 then .ok .empty
      else if c.toNat = 1 then .ok .gyroscopeNC
      else if c.toNat = 2 then .ok .accelerometerNC
      else if 3 ≤ c.toNat ∧ c.toNat ≤ 25 then .ok (.other c)
      else .invalidTag := by
  simp only [classify, BitVec.toNat_eq, BitVec.le_def]
  rfl

theorem classify_empty (c : BitVec 5) (h : c.toNat = 0) : classify c = .ok .empty := by
  rw [classify_eq_by_toNat, if_pos h]

theorem classify_gyroscopeNC (c : BitVec 5) (h : c.toNat = 1) : classify c = .ok .gyroscopeNC := by
  rw [classify_eq_by_toNat, if_neg (by omega), if_pos h]

theorem classify_accelerometerNC (c : BitVec 5) (h : c.toNat = 2) : classify c = .ok .accelerometerNC := by
  rw [classify_eq_by_toNat, if_neg (by omega), if_neg (by omega), if_pos h]

theorem classify_other (c : BitVec 5) (hmin : 3 ≤ c.toNat) (hmax : c.toNat ≤ 25) : classify c = .ok (.other c) := by
  rw [classify_eq_by_toNat, if_neg (by omega), if_neg (by omega), if_neg (by omega), if_pos ⟨hmin, hmax⟩]

theorem classify_invalidTag (c : BitVec 5) (h : 26 ≤ c.toNat) : classify c = .invalidTag := by
  rw [classify_eq_by_toNat, if_neg (by omega), if_neg (by omega), if_neg (by omega), if_neg (by omega)]

/-- Settles O6: the arms are those of the tag code, and a tag byte's arm is that of its quotient by 8. -/
theorem classifierArms : Obligations.ClassifierArms := by
  refine ⟨fun c => ⟨classify_empty c, classify_gyroscopeNC c, classify_accelerometerNC c, classify_other c,
    classify_invalidTag c⟩, fun b => ?_⟩
  have hcode := tagCode_toNat b
  refine ⟨fun _ => classify_empty _ ?_, fun _ _ => classify_gyroscopeNC _ ?_, fun _ _ => classify_accelerometerNC _ ?_,
    fun _ _ => ?_, fun _ => classify_invalidTag _ ?_⟩
  case refine_4 =>
    rw [← tagCode_eq_ofNat]
    exact classify_other _ (by omega) (by omega)
  all_goals omega

theorem classifyByte_of_ge (c : Byte) (h : 32 ≤ c.toNat) : classifyByte c = .invalidTag := if_neg (by omega)

theorem classifyByte_of_lt (c : Byte) (h : c.toNat < 32) : classifyByte c = classify (c.setWidth 5) := if_pos h

/-- Settles O7: the two sides of the bound at 32 (R96). -/
theorem wideOperandClassifies : Obligations.WideOperandClassifies :=
  fun c => ⟨classifyByte_of_ge c, classifyByte_of_lt c⟩

end Sys2Proof.Machine
end

section
/-! Proofs about the sample decoder: the unpacker, the conversion, the multiplication with its one rounding, and the scaled
lane. -/

namespace Sys2Proof.Machine

/-! ### The unpacker -/

/-- The payload is made of the bytes of its own lanes (R77, R101). -/
theorem pack16_unpack16 (P : Payload) : pack16 (unpack16 P) = P := by
  simp only [pack16, unpack16, s16_eq_toInt, BitVec.ofInt_toInt, le16_low, le16_high]

/-- The lane value of a pair of bytes by the sign of its high byte (R101, R102). -/
theorem s16_le16 (lo hi : Byte) :
    s16 (le16 lo hi) =
      if hi.toNat < 128 then ((lo.toNat + 256 * hi.toNat : Nat) : Int) else ((lo.toNat + 256 * hi.toNat : Nat) : Int) - 65536 := by
  have := lo.isLt
  rw [s16, le16_toNat]
  split_ifs <;> omega

/-- Settles O8: a payload and its lanes determine each other, pair of bytes by pair of bytes. -/
theorem unpackerIsBijection : Obligations.UnpackerIsBijection :=
  ⟨fun P => ⟨rfl, pack16_unpack16 P, s16_laneInRange _, s16_laneInRange _, s16_laneInRange _⟩, s16_le16,
    fun L => unpack16_pack16 L.x L.y L.z⟩

/-! ### Kinds of patterns -/

theorem f64IsFinite_iff (b : F64) : f64IsFinite b = true ↔ f64Exp b ≠ 2047 := by simp [f64IsFinite]

theorem f64IsNaN_iff (b : F64) : f64IsNaN b = true ↔ f64Exp b = 2047 ∧ f64Frac b ≠ 0 := by simp [f64IsNaN]

theorem f64IsInf_iff (b : F64) : f64IsInf b = true ↔ f64Exp b = 2047 ∧ f64Frac b = 0 := by simp [f64IsInf]

theorem f64IsZero_iff (b : F64) : f64IsZero b = true ↔ f64Exp b = 0 ∧ f64Frac b = 0 := by simp [f64IsZero]

theorem f64IsFinite_of_isZero (b : F64) (h : f64IsZero b = true) : f64IsFinite b = true := by
  rw [f64IsZero_iff] at h
  rw [f64IsFinite_iff]
  omega

theorem not_isNaN_of_isFinite (b : F64) (h : f64IsFinite b = true) : ¬ f64IsNaN b = true := by
  rw [f64IsFinite_iff] at h
  rw [f64IsNaN_iff]
  exact fun hb => h hb.1

theorem not_isInf_of_isFinite (b : F64) (h : f64IsFinite b = true) : ¬ f64IsInf b = true := by
  rw [f64IsFinite_iff] at h
  rw [f64IsInf_iff]
  exact fun hb => h hb.1

theorem not_isNaN_of_isInf (b : F64) (h : f64IsInf b = true) : ¬ f64IsNaN b = true := by
  rw [f64IsInf_iff] at h
  rw [f64IsNaN_iff]
  exact fun hb => hb.2 h.2

theorem not_isZero_of_isInf (b : F64) (h : f64IsInf b = true) : ¬ f64IsZero b = true :=
  fun hz => not_isInf_of_isFinite b (f64IsFinite_of_isZero b hz) h

theorem isNaN_or_isInf_of_not_isFinite (b : F64) (h : ¬ f64IsFinite b = true) : f64IsNaN b = true ∨ f64IsInf b = true := by
  rw [f64IsFinite_iff, not_not] at h
  rw [f64IsNaN_iff, f64IsInf_iff]
  tauto

/-- The infinity of each sign. -/
theorem f64IsInf_f64Of (neg : Bool) : f64IsInf (f64Of neg 0x7FF0000000000000) = true := by
  cases neg <;> decide

/-- The zero of each sign. -/
theorem f64IsZero_f64Of (neg : Bool) : f64IsZero (f64Of neg 0) = true := by
  cases neg <;> decide

/-! ### Magnitudes -/

theorem f64UnitsPerOne_pos : 0 < f64UnitsPerOne := by
  obtain ⟨w, hw⟩ : ∃ w, w = 1074 := ⟨_, rfl⟩
  rw [f64UnitsPerOne_eq w hw]
  exact Nat.two_pow_pos w

theorem f64Sig_lt (b : F64) : f64Sig b < 2 ^ 53 := by
  have := f64Frac_lt b
  rw [f64Sig]
  split_ifs <;> omega

/-- A number whose significand has another unit than the least is normal, with its leading bit. -/
theorem le_f64Sig_of_pow_pos (b : F64) (h : 0 < f64Pow b) : 2 ^ 52 ≤ f64Sig b := by
  rw [f64Pow] at h
  rw [f64Sig, if_neg (by omega)]
  omega

theorem f64Sig_pos (b : F64) (h : ¬ f64IsZero b = true) : 0 < f64Sig b := by
  rw [f64IsZero_iff] at h
  rw [f64Sig]
  split_ifs <;> omega

theorem f64Mag_pos (b : F64) (h : ¬ f64IsZero b = true) : 0 < f64Mag b := by
  rw [f64Mag_eq]
  exact Nat.mul_pos (f64Sig_pos b h) (Nat.two_pow_pos _)

/-- A number with a smaller unit than another is smaller. -/
theorem f64Mag_lt_of_pow_lt (a b : F64) (h : f64Pow a < f64Pow b) : f64Mag a < f64Mag b := by
  calc f64Mag a = f64Sig a * 2 ^ f64Pow a := f64Mag_eq a
    _ < 2 ^ 53 * 2 ^ f64Pow a := Nat.mul_lt_mul_of_pos_right (f64Sig_lt a) (Nat.two_pow_pos _)
    _ = 2 ^ 52 * 2 ^ (f64Pow a + 1) := by ring
    _ ≤ f64Sig b * 2 ^ f64Pow b :=
      Nat.mul_le_mul (le_f64Sig_of_pow_pos b (by omega)) (Nat.pow_le_pow_right (by omega) h)
    _ = f64Mag b := (f64Mag_eq b).symm

/-- Sign and magnitude determine a pattern. -/
theorem eq_of_neg_mag (a b : F64) (hn : f64Neg a = f64Neg b) (hm : f64Mag a = f64Mag b) : a = b := by
  have hpow : f64Pow a = f64Pow b := by
    rcases lt_trichotomy (f64Pow a) (f64Pow b) with h | h | h
    · exact absurd hm (f64Mag_lt_of_pow_lt a b h).ne
    · exact h
    · exact absurd hm (f64Mag_lt_of_pow_lt b a h).ne'
  have hsig : f64Sig a = f64Sig b := by
    rw [f64Mag_eq, f64Mag_eq, hpow] at hm
    exact Nat.eq_of_mul_eq_mul_right (Nat.two_pow_pos _) hm
  have ha := f64Frac_lt a
  have hb := f64Frac_lt b
  rw [f64Pow, f64Pow] at hpow
  rw [f64Sig, f64Sig] at hsig
  split_ifs at hsig <;> exact f64_ext a b hn (by omega) (by omega)

/-- The magnitude of a pattern whose exponent field was filled by adding the significand to it, as `roundProduct` does. -/
theorem f64Mag_f64Of (neg : Bool) (e r : Nat) (hr : r ≤ 2 ^ 53) (he : e = 0 ∨ 2 ^ 52 ≤ r) (h : e * 2 ^ 52 + r < 2 ^ 63) :
    f64Mag (f64Of neg (e * 2 ^ 52 + r)) = r * 2 ^ e := by
  rw [f64Mag_eq, f64Sig, f64Pow, f64Of_exp _ _ h, f64Of_frac _ _ h]
  obtain hsub | hnorm | hcarry : r < 2 ^ 52 ∨ 2 ^ 52 ≤ r ∧ r < 2 ^ 53 ∨ r = 2 ^ 53 := by omega
  · obtain rfl : e = 0 := by omega
    rw [if_pos (by omega), show (0 * 2 ^ 52 + r) % 2 ^ 52 = r by omega, show (0 * 2 ^ 52 + r) / 2 ^ 52 - 1 = 0 by omega]
  · rw [if_neg (by omega), show (e * 2 ^ 52 + r) / 2 ^ 52 - 1 = e by omega,
      show 2 ^ 52 + (e * 2 ^ 52 + r) % 2 ^ 52 = r by omega]
  · subst hcarry
    rw [if_neg (by omega), show (e * 2 ^ 52 + 2 ^ 53) / 2 ^ 52 - 1 = e + 1 by omega,
      show 2 ^ 52 + (e * 2 ^ 52 + 2 ^ 53) % 2 ^ 52 = 2 ^ 52 by omega]
    ring

theorem f64IsFinite_f64Of (neg : Bool) (mag : Nat) (h : mag < 0x7FF0000000000000) : f64IsFinite (f64Of neg mag) = true := by
  rw [f64IsFinite_iff, f64Of_exp _ _ (by omega)]
  omega

/-- The largest finite number is below the overflow point. -/
theorem f64Mag_lt_overflow (b : F64) (h : f64IsFinite b = true) : f64Mag b < f64OverflowMag := by
  have hexp := f64Exp_lt b
  rw [f64IsFinite_iff] at h
  have hsig := f64Sig_lt b
  rw [f64OverflowMag_eq 2044 rfl, f64Mag_eq]
  calc f64Sig b * 2 ^ f64Pow b ≤ (2 ^ 53 - 1) * 2 ^ (2044 + 1) :=
        Nat.mul_le_mul (by omega) (Nat.pow_le_pow_right (by omega) (by rw [f64Pow]; omega))
    _ < 0x3FFFFFFFFFFFFF * 2 ^ 2044 := by
      rw [pow_succ]
      have := Nat.two_pow_pos 2044
      omega

/-! ### The conversion -/

/-- The bits below the leading one, shifted to the top of the fraction field (R103). -/
theorem i2f_frac_lt (m k : Nat) (hk : k ≤ 52) (hlt : m < 2 ^ (k + 1)) : (m - 2 ^ k) * 2 ^ (52 - k) < 2 ^ 52 := by
  calc (m - 2 ^ k) * 2 ^ (52 - k) < 2 ^ k * 2 ^ (52 - k) :=
        Nat.mul_lt_mul_of_pos_right (by rw [pow_succ] at hlt; have := Nat.two_pow_pos k; omega) (Nat.two_pow_pos _)
    _ = 2 ^ 52 := by rw [← pow_add, Nat.add_sub_cancel' hk]

/-- The pattern of R103 as an exponent field to which the significand is added, `m` shifted left until it has 53 bits. -/
theorem i2f_of_leading_bit (n : Int) (k : Nat) (hle : 2 ^ k ≤ n.natAbs) (hlt : n.natAbs < 2 ^ (k + 1)) :
    i2f n = f64Of (decide (n < 0)) ((1022 + k) * 2 ^ 52 + (2 ^ 52 + (n.natAbs - 2 ^ k) * 2 ^ (52 - k))) := by
  have hpos := Nat.two_pow_pos k
  have hlog : n.natAbs.log2 = k := (Nat.log2_eq_iff (by omega)).mpr ⟨hle, hlt⟩
  rw [i2f_eq n (by omega), hlog]
  generalize (n.natAbs - 2 ^ k) * 2 ^ (52 - k) = f
  exact congrArg (f64Of _) (by omega)

/-- The significand and the unit that R103 gives to `m` make `m` again. -/
theorem i2f_significand_mul_unit (m k : Nat) (hk : k ≤ 52) (hle : 2 ^ k ≤ m) :
    (2 ^ 52 + (m - 2 ^ k) * 2 ^ (52 - k)) * 2 ^ (1022 + k) = m * f64UnitsPerOne := by
  have hlead : 2 ^ 52 = 2 ^ k * 2 ^ (52 - k) := by rw [← pow_add, Nat.add_sub_cancel' hk]
  have hsig : 2 ^ 52 + (m - 2 ^ k) * 2 ^ (52 - k) = m * 2 ^ (52 - k) := by
    rw [hlead, ← Nat.add_mul, Nat.add_sub_cancel' hle]
  rw [hsig, f64UnitsPerOne_eq (52 - k + (1022 + k)) (by omega), Nat.mul_assoc, ← pow_add]

/-- The fields and the magnitude of a converted integer, by the place `k` of its leading bit (R103). -/
theorem i2f_fields (n : Int) (k : Nat) (hk : k ≤ 52) (hle : 2 ^ k ≤ n.natAbs) (hlt : n.natAbs < 2 ^ (k + 1)) :
    f64Neg (i2f n) = decide (n < 0) ∧ f64Exp (i2f n) = 1023 + k ∧
    f64Frac (i2f n) = (n.natAbs - 2 ^ k) * 2 ^ (52 - k) ∧ f64Mag (i2f n) = n.natAbs * f64UnitsPerOne := by
  have hfrac := i2f_frac_lt n.natAbs k hk hlt
  have hmag := i2f_significand_mul_unit n.natAbs k hk hle
  rw [i2f_of_leading_bit n k hle hlt]
  generalize (n.natAbs - 2 ^ k) * 2 ^ (52 - k) = f at *
  have hbits : (1022 + k) * 2 ^ 52 + (2 ^ 52 + f) < 2 ^ 63 := by omega
  refine ⟨f64Of_neg _ _ hbits, ?_, ?_, ?_⟩
  · rw [f64Of_exp _ _ hbits]
    omega
  · rw [f64Of_frac _ _ hbits]
    omega
  · rw [f64Mag_f64Of _ _ _ (by omega) (by omega) hbits, hmag]

theorem i2f_zero : i2f 0 = 0 := rfl

/-- The leading bit of a lane value that is not 0. -/
theorem lane_leading_bit (n : Int) (hlo : -32768 ≤ n) (hhi : n ≤ 32767) (h0 : n ≠ 0) :
    ∃ k ≤ 15, 2 ^ k ≤ n.natAbs ∧ n.natAbs < 2 ^ (k + 1) := by
  have hm : n.natAbs ≠ 0 := by omega
  have hle := Nat.log2_self_le hm
  refine ⟨n.natAbs.log2, ?_, hle, Nat.lt_log2_self⟩
  exact Nat.le_of_lt_succ ((Nat.pow_lt_pow_iff_right (a := 2) (by omega)).mp (by omega))

/-- What a converted lane value is as an operand of the multiplication (R103). -/
theorem i2f_lane (n : Int) (hlo : -32768 ≤ n) (hhi : n ≤ 32767) :
    f64IsFinite (i2f n) = true ∧ f64Neg (i2f n) = decide (n < 0) ∧ f64Mag (i2f n) = n.natAbs * f64UnitsPerOne := by
  by_cases h0 : n = 0
  · subst h0
    exact ⟨by decide, by decide, (show f64Mag (i2f 0) = 0 by decide).trans (Nat.zero_mul _).symm⟩
  · obtain ⟨k, hk, hle, hlt⟩ := lane_leading_bit n hlo hhi h0
    obtain ⟨hneg, hexp, -, hmag⟩ := i2f_fields n k (by omega) hle hlt
    exact ⟨(f64IsFinite_iff _).mpr (by omega), hneg, hmag⟩

theorem i2f_lane_not_isZero (n : Int) (hlo : -32768 ≤ n) (hhi : n ≤ 32767) (h0 : n ≠ 0) : ¬ f64IsZero (i2f n) = true := by
  obtain ⟨k, hk, hle, hlt⟩ := lane_leading_bit n hlo hhi h0
  obtain ⟨-, hexp, -, -⟩ := i2f_fields n k (by omega) hle hlt
  rw [f64IsZero_iff]
  omega

/-- Settles O9: the place of the leading bit of `n` gives both fields of `i2f n`. -/
theorem integerConversionIsExact : Obligations.IntegerConversionIsExact := by
  refine ⟨i2f_zero, fun n hlo hhi => ?_⟩
  obtain ⟨hfin, hneg, hmag⟩ := i2f_lane n hlo hhi
  refine ⟨hfin, hneg, hmag, fun k hle hlt => ?_⟩
  have hk : k < 16 := (Nat.pow_lt_pow_iff_right (a := 2) (by omega)).mp (by omega)
  obtain ⟨-, hexp, hfrac, -⟩ := i2f_fields n k (by omega) hle hlt
  exact ⟨hexp, hfrac⟩

/-! ### The rows of the multiplication -/

theorem fmul_eq_nanOf (raw a b : F64)
    (h : f64IsNaN a = true ∨ f64IsNaN b = true ∨ f64IsInf a = true ∧ f64IsZero b = true ∨
      f64IsZero a = true ∧ f64IsInf b = true) : fmul raw a b = nanOf raw := by
  simp only [fmul]
  split_ifs with hnan hinf
  · rfl
  · rfl
  all_goals
    simp only [Bool.or_eq_true, Bool.and_eq_true] at hnan hinf
    tauto

theorem fmul_inf (raw a b : F64)
    (h : f64IsInf a = true ∧ ¬ f64IsNaN b = true ∧ ¬ f64IsZero b = true ∨
      f64IsInf b = true ∧ ¬ f64IsNaN a = true ∧ ¬ f64IsZero a = true) :
    fmul raw a b = f64Of (f64Neg a ^^ f64Neg b) 0x7FF0000000000000 := by
  obtain ⟨ha, hbn, hbz⟩ | ⟨hb, han, haz⟩ := h
  · simp [fmul, ha, hbn, hbz, not_isNaN_of_isInf a ha, not_isZero_of_isInf a ha]
  · simp [fmul, hb, han, haz, not_isNaN_of_isInf b hb, not_isZero_of_isInf b hb]

theorem fmul_zero (raw a b : F64) (ha : f64IsFinite a = true) (hb : f64IsFinite b = true)
    (h : f64IsZero a = true ∨ f64IsZero b = true) : fmul raw a b = f64Of (f64Neg a ^^ f64Neg b) 0 := by
  simp [fmul, not_isNaN_of_isFinite a ha, not_isNaN_of_isFinite b hb, not_isInf_of_isFinite a ha,
    not_isInf_of_isFinite b hb, h]

theorem fmul_finite (raw a b : F64) (ha : f64IsFinite a = true) (hb : f64IsFinite b = true)
    (haz : ¬ f64IsZero a = true) (hbz : ¬ f64IsZero b = true) :
    fmul raw a b = f64Of (f64Neg a ^^ f64Neg b) (roundProduct (f64Sig a * f64Sig b) (f64Pow a + f64Pow b)) := by
  simp [fmul, not_isNaN_of_isFinite a ha, not_isNaN_of_isFinite b hb, not_isInf_of_isFinite a ha,
    not_isInf_of_isFinite b hb, haz, hbz]

/-- Settles O10: the rows of R104 one by one. -/
theorem multiplySpecialOperands : Obligations.MultiplySpecialOperands := by
  refine fun raw a b => ⟨fun h => ?_, fun h => ?_, fun h => ?_, fun h => ?_⟩
  · rw [fmul_eq_nanOf raw a b (by tauto)]
    exact f64IsNaN_nanOf raw
  · rw [fmul_eq_nanOf raw a b (by tauto)]
    exact f64IsNaN_nanOf raw
  · rw [fmul_inf raw a b h]
    exact ⟨f64IsInf_f64Of _, f64Of_neg _ _ (by omega)⟩
  · obtain ⟨ha, hb, hz⟩ : f64IsFinite a = true ∧ f64IsFinite b = true ∧ (f64IsZero a = true ∨ f64IsZero b = true) := by
      obtain ⟨ha, hb⟩ | ⟨ha, hb⟩ := h
      · exact ⟨f64IsFinite_of_isZero a ha, hb, .inl ha⟩
      · exact ⟨ha, f64IsFinite_of_isZero b hb, .inr hb⟩
    rw [fmul_zero raw a b ha hb hz]
    exact ⟨f64IsZero_f64Of _, f64Of_neg _ _ (by omega)⟩

/-- The draw of free bits that are a NaN already is that NaN (R111). -/
theorem nanOf_of_isNaN (z : F64) (h : f64IsNaN z = true) : nanOf z = z := if_pos h

/-- Settles O13: the answer is the draw, which takes a NaN as it is. -/
theorem nanDrawIsAnyNan : Obligations.NanDrawIsAnyNan := by
  refine ⟨fun a b h => ⟨fun raw => ?_, fun z hz => ⟨z, ?_⟩⟩, f64IsNaN_nanOf, fun z hz => ⟨z, nanOf_of_isNaN z hz⟩⟩
  · rw [fmul_eq_nanOf raw a b h]
    exact f64IsNaN_nanOf raw
  · rw [fmul_eq_nanOf z a b h, nanOf_of_isNaN z hz]

/-! ### One rounding -/

theorem le_roundHalfEven (n d k : Nat) (hd : 0 < d) (h : k * d ≤ n) : k ≤ roundHalfEven n d := by
  obtain ⟨hup, -, -⟩ := roundHalfEven_spec n d hd
  by_contra! hlt
  have := Nat.mul_le_mul_right d (Nat.succ_le_of_lt hlt)
  rw [Nat.succ_mul] at this
  omega

theorem roundHalfEven_le (n d k : Nat) (hd : 0 < d) (h : n ≤ k * d) : roundHalfEven n d ≤ k := by
  obtain ⟨-, hdown, -⟩ := roundHalfEven_spec n d hd
  by_contra! hlt
  have := Nat.mul_le_mul_right d (Nat.succ_le_of_lt hlt)
  rw [Nat.succ_mul] at this
  omega

/-- A quotient up to one half rounds to zero, which is even. -/
theorem roundHalfEven_eq_zero_iff (n d : Nat) (hd : 0 < d) : roundHalfEven n d = 0 ↔ 2 * n ≤ d := by
  obtain ⟨hup, hdown, heven⟩ := roundHalfEven_spec n d hd
  constructor
  · intro h
    rw [h] at hup
    omega
  · intro h
    generalize roundHalfEven n d = r at *
    obtain h0 | h1 | h2 : r = 0 ∨ r = 1 ∨ 2 ≤ r := by omega
    · exact h0
    · subst h1
      have := heven (by omega)
      omega
    · have := Nat.mul_le_mul_right d h2
      omega

/-- Rounding does not depend on the unit in which numerator and denominator are counted. -/
theorem roundHalfEven_mul_right (n d t : Nat) (ht : 0 < t) : roundHalfEven (n * t) (d * t) = roundHalfEven n d := by
  simp only [roundHalfEven, Nat.mul_div_mul_right _ _ ht, Nat.mul_mod_mul_right, ← Nat.mul_assoc,
    Nat.mul_lt_mul_right ht]

/-- No integer `k` is nearer to `n / d` than `roundHalfEven n d`, and where another is as near it is even. -/
theorem roundHalfEven_nearest (n d k : Nat) (hd : 0 < d) :
    Statements.distance (roundHalfEven n d * d) n ≤ Statements.distance (k * d) n ∧
    (Statements.distance (roundHalfEven n d * d) n = Statements.distance (k * d) n →
      k = roundHalfEven n d ∨ roundHalfEven n d % 2 = 0) := by
  obtain ⟨hup, hdown, heven⟩ := roundHalfEven_spec n d hd
  generalize roundHalfEven n d = r at *
  simp only [Statements.distance]
  by_cases hk : k = r
  · subst hk
    exact ⟨le_refl _, fun _ => .inl rfl⟩
  · have hstep : k * d + d ≤ r * d ∨ r * d + d ≤ k * d := by
      rw [← Nat.succ_mul, ← Nat.succ_mul]
      exact (Nat.lt_or_gt_of_ne hk).imp (Nat.mul_le_mul_right d) (Nat.mul_le_mul_right d)
    exact ⟨by omega, fun _ => .inr (heven (by omega))⟩

/-- `2^(w + e)` is the unit to which a product `p` is rounded, both counted in the least unit of a product: the least `e` for
which `p` has at most 53 bits before the point. -/
structure IsRoundingUnit (w p e : Nat) : Prop where
  le_product : e = 0 ∨ 2 ^ 52 * 2 ^ (w + e) ≤ p
  product_lt : p < 2 ^ 53 * 2 ^ (w + e)

/-- `roundProduct` rounds the product once, to an integer number of its rounding unit. -/
theorem roundProduct_rounds (m q w : Nat) (hm : m ≠ 0) (hw : w = 1074) :
    ∃ e, IsRoundingUnit w (m * 2 ^ q) e ∧
      roundProduct m q = min (e * 2 ^ 52 + roundHalfEven (m * 2 ^ q) (2 ^ (w + e))) 0x7FF0000000000000 := by
  obtain ⟨e, he⟩ : ∃ e, e = Nat.log2 m + q - (w + 52) := ⟨_, rfl⟩
  refine ⟨e, ⟨?_, ?_⟩, ?_⟩
  · obtain h0 | hlog : e = 0 ∨ 52 + (w + e) = Nat.log2 m + q := by omega
    · exact .inl h0
    · rw [← pow_add, hlog, pow_add]
      exact .inr (Nat.mul_le_mul_right _ (Nat.log2_self_le hm))
  · calc m * 2 ^ q < 2 ^ (Nat.log2 m + 1) * 2 ^ q :=
          Nat.mul_lt_mul_of_pos_right Nat.lt_log2_self (Nat.two_pow_pos _)
      _ = 2 ^ (Nat.log2 m + 1 + q) := (pow_add _ _ _).symm
      _ ≤ 2 ^ (53 + (w + e)) := Nat.pow_le_pow_right (by omega) (by omega)
      _ = 2 ^ 53 * 2 ^ (w + e) := pow_add _ _ _
  · have hnum : m * 2 ^ q = m * 2 ^ (q - (w + e)) * 2 ^ min q (w + e) := by
      rw [Nat.mul_assoc, ← pow_add, Nat.sub_add_min_cancel]
    have hden : 2 ^ (w + e) = 2 ^ (w + e - q) * 2 ^ min q (w + e) := by
      rw [← pow_add, Nat.min_comm, Nat.sub_add_min_cancel]
    rw [roundProduct_eq m q w e hw he, hnum, hden, roundHalfEven_mul_right _ _ _ (Nat.two_pow_pos _)]

section
variable {w p e : Nat}

namespace IsRoundingUnit

theorem rounded_le (h : IsRoundingUnit w p e) : roundHalfEven p (2 ^ (w + e)) ≤ 2 ^ 53 :=
  roundHalfEven_le _ _ _ (Nat.two_pow_pos _) h.product_lt.le

/-- A rounded significand is normal unless the unit is the least one. -/
theorem le_rounded (h : IsRoundingUnit w p e) : e = 0 ∨ 2 ^ 52 ≤ roundHalfEven p (2 ^ (w + e)) :=
  h.le_product.imp_right (le_roundHalfEven _ _ _ (Nat.two_pow_pos _))

/-- No finite number is nearer to the product than the rounded one, and where another is as near the latter is even: a number
of a smaller unit lies below all the numbers of 53 bits of the rounding unit, the others are multiples of it. -/
theorem nearest (h : IsRoundingUnit w p e) (c : F64) :
    Statements.distance (roundHalfEven p (2 ^ (w + e)) * 2 ^ (w + e)) p ≤ Statements.distance (f64Mag c * 2 ^ w) p ∧
    (Statements.distance (roundHalfEven p (2 ^ (w + e)) * 2 ^ (w + e)) p = Statements.distance (f64Mag c * 2 ^ w) p →
      f64Mag c = roundHalfEven p (2 ^ (w + e)) * 2 ^ e ∨ roundHalfEven p (2 ^ (w + e)) % 2 = 0) := by
  have hunit := Nat.two_pow_pos (w + e)
  obtain hlt | hle := Nat.lt_or_ge (f64Pow c) e
  · have hbelow : f64Mag c * 2 ^ w < 2 ^ 52 * 2 ^ (w + e) := by
      calc f64Mag c * 2 ^ w = f64Sig c * 2 ^ f64Pow c * 2 ^ w := by rw [f64Mag_eq]
        _ < 2 ^ 53 * 2 ^ f64Pow c * 2 ^ w := by gcongr; exact f64Sig_lt c
        _ = 2 ^ 52 * 2 ^ (w + (f64Pow c + 1)) := by ring
        _ ≤ 2 ^ 52 * 2 ^ (w + e) := by gcongr <;> omega
    have hproduct := h.le_product.resolve_left (by omega)
    obtain ⟨hnear, -⟩ := roundHalfEven_nearest p (2 ^ (w + e)) (2 ^ 52) hunit
    have hfar : Statements.distance (2 ^ 52 * 2 ^ (w + e)) p < Statements.distance (f64Mag c * 2 ^ w) p := by
      simp only [Statements.distance]
      omega
    exact ⟨by omega, fun heq => by omega⟩
  · have hmag : f64Mag c = f64Sig c * 2 ^ (f64Pow c - e) * 2 ^ e := by
      rw [f64Mag_eq, Nat.mul_assoc, ← pow_add, Nat.sub_add_cancel hle]
    have hmul : f64Mag c * 2 ^ w = f64Sig c * 2 ^ (f64Pow c - e) * 2 ^ (w + e) := by
      rw [hmag]
      ring
    rw [hmul]
    obtain ⟨hnear, htie⟩ := roundHalfEven_nearest p (2 ^ (w + e)) (f64Sig c * 2 ^ (f64Pow c - e)) hunit
    exact ⟨hnear, fun heq => (htie heq).imp_left fun hk => by rw [hmag, hk]⟩

/-- The rounded magnitude bits reach the infinity where the product reaches the overflow point. -/
theorem overflow_iff (h : IsRoundingUnit w p e) :
    0x7FF0000000000000 ≤ e * 2 ^ 52 + roundHalfEven p (2 ^ (w + e)) ↔ f64OverflowMag * 2 ^ w ≤ p := by
  have hle := h.rounded_le
  have hge := h.le_rounded
  have hlt := h.product_lt
  rw [f64OverflowMag_eq 2044 rfl, Nat.mul_assoc, ← pow_add, Nat.add_comm 2044 w]
  obtain hsmall | hedge | hlarge : e ≤ 2044 ∨ e = 2045 ∨ 2046 ≤ e := by omega
  · have hunit : 2 ^ (w + e) ≤ 2 ^ (w + 2044) := Nat.pow_le_pow_right (by omega) (by omega)
    have := Nat.two_pow_pos (w + 2044)
    exact iff_of_false (by omega) (by omega)
  · have hunit : 2 ^ (w + e) = 2 * 2 ^ (w + 2044) := by rw [hedge, Nat.mul_comm, ← pow_succ, Nat.add_assoc]
    obtain ⟨hup, hdown, heven⟩ := roundHalfEven_spec p (2 ^ (w + e)) (Nat.two_pow_pos _)
    generalize roundHalfEven p (2 ^ (w + e)) = r at *
    rw [hunit] at hup hdown heven
    have hpos := Nat.two_pow_pos (w + 2044)
    generalize 2 ^ (w + 2044) = t at *
    obtain hfull | hodd | hless : r = 2 ^ 53 ∨ r = 2 ^ 53 - 1 ∨ r ≤ 2 ^ 53 - 2 := by omega
    · subst hfull
      exact iff_of_true (by omega) (by omega)
    · subst hodd
      exact iff_of_false (by omega) fun hp => absurd (heven (by omega)) (by omega)
    · have := Nat.mul_le_mul_right (2 * t) hless
      exact iff_of_false (by omega) (by omega)
  · have hunit : 2 ^ (w + 2044) * 2 ^ 2 ≤ 2 ^ (w + e) := by
      rw [← pow_add]
      exact Nat.pow_le_pow_right (by omega) (by omega)
    have hproduct := h.le_product.resolve_left (by omega)
    exact iff_of_true (by omega) (by omega)

/-- The rounded magnitude bits are those of a zero up to half the least unit. -/
theorem zero_iff (h : IsRoundingUnit w p e) :
    e * 2 ^ 52 + roundHalfEven p (2 ^ (w + e)) = 0 ↔ 2 * p ≤ 2 ^ w := by
  obtain hsub | hle := h.le_product
  · subst hsub
    rw [Nat.zero_mul, Nat.zero_add, Nat.add_zero]
    exact roundHalfEven_eq_zero_iff p (2 ^ w) (Nat.two_pow_pos w)
  · have hpos := Nat.two_pow_pos w
    have hunit : 2 ^ w ≤ 2 ^ (w + e) := Nat.pow_le_pow_right (by omega) (by omega)
    have hround := le_roundHalfEven _ _ _ (Nat.two_pow_pos _) hle
    exact iff_of_false (by omega) (by omega)

end IsRoundingUnit

end

/-! ### The product of finite non-zero operands -/

section
variable {a b : F64} (ha : f64IsFinite a = true) (hb : f64IsFinite b = true) (haz : ¬ f64IsZero a = true)
  (hbz : ¬ f64IsZero b = true)
include ha hb haz hbz

/-- The product is the exact one rounded once (R104), cut off at the infinity. -/
theorem fmul_rounds (raw : F64) (w : Nat) (hw : w = 1074) :
    ∃ e, IsRoundingUnit w (f64Mag a * f64Mag b) e ∧
      fmul raw a b = f64Of (f64Neg a ^^ f64Neg b)
        (min (e * 2 ^ 52 + roundHalfEven (f64Mag a * f64Mag b) (2 ^ (w + e))) 0x7FF0000000000000) := by
  have hsig := Nat.mul_ne_zero (f64Sig_pos a haz).ne' (f64Sig_pos b hbz).ne'
  have hproduct : f64Mag a * f64Mag b = f64Sig a * f64Sig b * 2 ^ (f64Pow a + f64Pow b) := by
    rw [f64Mag_eq, f64Mag_eq]
    ring
  obtain ⟨e, hunit, hround⟩ := roundProduct_rounds (f64Sig a * f64Sig b) (f64Pow a + f64Pow b) w hsig hw
  exact ⟨e, hproduct ▸ hunit, by rw [fmul_finite raw a b ha hb haz hbz, hround, hproduct]⟩

theorem fmul_neg (raw : F64) : f64Neg (fmul raw a b) = (f64Neg a ^^ f64Neg b) := by
  obtain ⟨e, -, hfmul⟩ := fmul_rounds ha hb haz hbz raw 1074 rfl
  rw [hfmul]
  exact f64Of_neg _ _ (by omega)

/-- From the overflow point on the product is the infinity (R104). -/
theorem fmul_overflow (raw : F64) (h : f64OverflowMag * f64UnitsPerOne ≤ f64Mag a * f64Mag b) :
    f64IsInf (fmul raw a b) = true := by
  obtain ⟨e, hunit, hfmul⟩ := fmul_rounds ha hb haz hbz raw 1074 rfl
  rw [f64UnitsPerOne_eq 1074 rfl] at h
  rw [hfmul, Nat.min_eq_right (hunit.overflow_iff.mpr h)]
  exact f64IsInf_f64Of _

/-- Below the overflow point the product is finite, and nearest to the exact one, even where another is as near (R104). -/
theorem fmul_nearest (raw : F64) (h : f64Mag a * f64Mag b < f64OverflowMag * f64UnitsPerOne) :
    f64IsFinite (fmul raw a b) = true ∧
    ∀ c : F64,
      Statements.distance (f64Mag (fmul raw a b) * f64UnitsPerOne) (f64Mag a * f64Mag b) ≤
        Statements.distance (f64Mag c * f64UnitsPerOne) (f64Mag a * f64Mag b) ∧
      (Statements.distance (f64Mag (fmul raw a b) * f64UnitsPerOne) (f64Mag a * f64Mag b) =
          Statements.distance (f64Mag c * f64UnitsPerOne) (f64Mag a * f64Mag b) →
        f64Mag c = f64Mag (fmul raw a b) ∨ f64Frac (fmul raw a b) % 2 = 0) := by
  obtain ⟨w, hw⟩ : ∃ w, w = 1074 := ⟨_, rfl⟩
  obtain ⟨e, hunit, hfmul⟩ := fmul_rounds ha hb haz hbz raw w hw
  rw [f64UnitsPerOne_eq w hw] at h ⊢
  have hlt := lt_of_not_ge (hunit.overflow_iff.not.mpr h.not_ge)
  rw [Nat.min_eq_left hlt.le] at hfmul
  have hmag := f64Mag_f64Of (f64Neg a ^^ f64Neg b) e _ hunit.rounded_le hunit.le_rounded (by omega)
  have hfrac := f64Of_frac (f64Neg a ^^ f64Neg b) _ (hlt.trans (by omega))
  rw [← hfmul] at hmag hfrac
  refine ⟨hfmul ▸ f64IsFinite_f64Of _ _ hlt, fun c => ?_⟩
  obtain ⟨hnear, htie⟩ := hunit.nearest c
  rw [hmag, Nat.mul_assoc, ← pow_add, Nat.add_comm e w, hfrac]
  exact ⟨hnear, fun heq => (htie heq).imp_right fun heven => by omega⟩

/-- The product is a zero exactly where the exact one is at most half the least unit (R104). -/
theorem fmul_isZero_iff (raw : F64) : f64IsZero (fmul raw a b) = true ↔ 2 * (f64Mag a * f64Mag b) ≤ f64UnitsPerOne := by
  obtain ⟨w, hw⟩ : ∃ w, w = 1074 := ⟨_, rfl⟩
  obtain ⟨e, hunit, hfmul⟩ := fmul_rounds ha hb haz hbz raw w hw
  rw [f64UnitsPerOne_eq w hw, ← hunit.zero_iff, hfmul, f64IsZero_iff, f64Of_exp _ _ (by omega), f64Of_frac _ _ (by omega)]
  omega

end

/-- Settles O11: the product is the exact one in its rounding unit, rounded by `roundHalfEven`. -/
theorem multiplyRoundsToNearestEven : Obligations.MultiplyRoundsToNearestEven := by
  intro raw a b ha hb haz hbz
  refine ⟨fmul_neg ha hb haz hbz raw, fun h => ?_, fmul_overflow ha hb haz hbz raw, fmul_isZero_iff ha hb haz hbz raw⟩
  obtain ⟨hfin, hnear⟩ := fmul_nearest ha hb haz hbz raw h
  exact ⟨hfin, fun c _ => hnear c⟩

/-- Settles O12: a number that equals the exact product is at distance 0 from it, so no other is nearest. -/
theorem exactProductsAreDelivered : Obligations.ExactProductsAreDelivered := by
  intro raw a b c ha hb hc haz hbz hmag hneg
  have hunit := f64UnitsPerOne_pos
  have hbelow : f64Mag a * f64Mag b < f64OverflowMag * f64UnitsPerOne :=
    hmag ▸ Nat.mul_lt_mul_of_pos_right (f64Mag_lt_overflow c hc) hunit
  obtain ⟨-, hnear⟩ := fmul_nearest ha hb haz hbz raw hbelow
  obtain ⟨hle, -⟩ := hnear c
  rw [← hmag] at hle
  simp only [Statements.distance] at hle
  have hexact : f64Mag (fmul raw a b) * f64UnitsPerOne = f64Mag c * f64UnitsPerOne := by omega
  exact eq_of_neg_mag _ _ ((fmul_neg ha hb haz hbz raw).trans hneg.symm) (Nat.eq_of_mul_eq_mul_right hunit hexact)

/-! ### The scaled lane -/

/-- A lane times a zero scale (R104, R108). -/
theorem scaleLane_zeroScale (raw s : F64) (l : Int) (hlo : -32768 ≤ l) (hhi : l ≤ 32767) (hs : f64IsZero s = true) :
    scaleLane raw l s = f64Of (decide (l < 0) ^^ f64Neg s) 0 := by
  obtain ⟨hfin, hneg, -⟩ := i2f_lane l hlo hhi
  rw [scaleLane, fmul_zero raw _ s hfin (f64IsFinite_of_isZero s hs) (.inr hs), hneg]

/-- Lane 0 times a finite scale (R104, R108). -/
theorem scaleLane_zeroLane (raw s : F64) (hs : f64IsFinite s = true) : scaleLane raw 0 s = f64Of (f64Neg s) 0 := by
  rw [scaleLane, i2f_zero, fmul_zero raw 0 s (by decide) hs (.inl (by decide)), show f64Neg 0 = false by decide,
    Bool.false_xor]

/-- A non-zero lane times an infinite scale (R104, R109). -/
theorem scaleLane_infScale (raw s : F64) (l : Int) (hlo : -32768 ≤ l) (hhi : l ≤ 32767) (h0 : l ≠ 0)
    (hs : f64IsInf s = true) : scaleLane raw l s = f64Of (decide (l < 0) ^^ f64Neg s) 0x7FF0000000000000 := by
  obtain ⟨hfin, hneg, -⟩ := i2f_lane l hlo hhi
  rw [scaleLane, fmul_inf raw _ s (.inr ⟨hs, not_isNaN_of_isFinite _ hfin, i2f_lane_not_isZero l hlo hhi h0⟩), hneg]

theorem scaleLane_nanScale (raw s : F64) (l : Int) (hs : f64IsNaN s = true) : f64IsNaN (scaleLane raw l s) = true := by
  rw [scaleLane, fmul_eq_nanOf raw _ s (.inr (.inl hs))]
  exact f64IsNaN_nanOf raw

/-- Lane 0 times an infinite scale is the row of a zero times an infinity (R104, R109). -/
theorem scaleLane_zeroLane_infScale (raw s : F64) (hs : f64IsInf s = true) : f64IsNaN (scaleLane raw 0 s) = true := by
  rw [scaleLane, fmul_eq_nanOf raw _ s (.inr (.inr (.inr ⟨by decide, hs⟩)))]
  exact f64IsNaN_nanOf raw

/-- Settles O14: the sign of each zero is the product's. -/
theorem zeroLaneAndZeroScale : Obligations.ZeroLaneAndZeroScale := by
  refine fun raw s => ⟨fun hs hn => ?_, fun hs hn => ?_, fun hs => ?_, fun l hlo hhi _ => ⟨?_, ?_⟩⟩
  · rw [scaleLane_zeroLane raw s hs, hn]
    rfl
  · rw [scaleLane_zeroLane raw s hs, hn]
    rfl
  · obtain hnan | hinf := isNaN_or_isInf_of_not_isFinite s hs
    · exact scaleLane_nanScale raw s 0 hnan
    · exact scaleLane_zeroLane_infScale raw s hinf
  · rw [scaleLane_zeroScale raw _ l hlo hhi (by decide)]
    by_cases h : l < 0 <;> simp only [h] <;> decide
  · rw [scaleLane_zeroScale raw _ l hlo hhi (by decide)]
    by_cases h : l < 0 <;> simp only [h] <;> decide

/-- Settles O15: an infinite scale leaves the sign to the lane. -/
theorem infiniteAndNanScale : Obligations.InfiniteAndNanScale := by
  refine fun raw s l hlo hhi => ⟨scaleLane_nanScale raw s l, fun h => ?_, fun h => ?_, fun h => ?_, fun h => ?_, fun h => ?_⟩
  · rw [scaleLane_infScale raw _ l hlo hhi (by omega) (by decide), decide_eq_false (by omega)]
    decide
  · rw [scaleLane_infScale raw _ l hlo hhi (by omega) (by decide), decide_eq_true h]
    decide
  · rw [scaleLane_infScale raw _ l hlo hhi (by omega) (by decide), decide_eq_false (by omega)]
    decide
  · rw [scaleLane_infScale raw _ l hlo hhi (by omega) (by decide), decide_eq_true h]
    decide
  · subst h
    exact ⟨scaleLane_zeroLane_infScale raw _ (by decide), scaleLane_zeroLane_infScale raw _ (by decide)⟩

/-- Settles O16: the exact product is at least the scale's magnitude, so at least the least unit. -/
theorem scalingNeverVanishes : Obligations.ScalingNeverVanishes := by
  intro raw s l hlo hhi h0 hs hsz
  obtain ⟨hfin, -, hmag⟩ := i2f_lane l hlo hhi
  have hunit := f64UnitsPerOne_pos
  rw [scaleLane, fmul_isZero_iff hfin hs (i2f_lane_not_isZero l hlo hhi h0) hsz, hmag, not_le]
  have hge : f64UnitsPerOne ≤ l.natAbs * f64UnitsPerOne * f64Mag s := by
    calc f64UnitsPerOne = 1 * f64UnitsPerOne * 1 := by ring
      _ ≤ l.natAbs * f64UnitsPerOne * f64Mag s := by
        gcongr
        · omega
        · exact f64Mag_pos s hsz
  omega

theorem f64Mag_one : f64Mag 0x3FF0000000000000 = f64UnitsPerOne := by
  have hsig : f64Sig 0x3FF0000000000000 = 2 ^ 52 := by decide
  have hpow : f64Pow 0x3FF0000000000000 = 1022 := by decide
  rw [f64Mag_eq, hsig, hpow, f64UnitsPerOne_eq (52 + 1022) rfl, pow_add]

/-- Settles O17: the product by 1.0 equals the converted lane, so it is delivered exactly; on lane 0 it is the zero row. -/
theorem scalingByOneIsExact : Obligations.ScalingByOneIsExact := by
  intro raw l hlo hhi
  by_cases h0 : l = 0
  · subst h0
    exact scaleLane_zeroLane raw _ (by decide)
  · obtain ⟨hfin, -, -⟩ := i2f_lane l hlo hhi
    have hone : f64Neg 0x3FF0000000000000 = false := by decide
    exact exactProductsAreDelivered raw _ _ _ hfin (by decide) hfin (i2f_lane_not_isZero l hlo hhi h0) (by decide)
      (by rw [f64Mag_one]) (by rw [hone, Bool.xor_false])

/-- Settles O18: 0.3 is rounded up before the second product, while 0.1 times 10.0 rounds to 1.0. -/
theorem linearityFails : Obligations.LinearityFails := by
  intro raw
  have h3 : scaleLane raw 3 0x3FB999999999999A = 0x3FD3333333333334 := rfl
  have h10 : fmul raw 0x3FB999999999999A 0x4024000000000000 = 0x3FF0000000000000 := rfl
  rw [h3, h10]
  exact ⟨rfl, rfl⟩

end Sys2Proof.Machine
end

section
/-! Proofs about the FIFO reader: what each kind of entry yields, the steps of an operation, and admissible scripts run to
their end. -/

namespace Sys2Proof.Machine

/-! ### The rows of the opcode table -/

/-- The eight tag bytes of a code decode to the row that the code names (R64, R68). -/
theorem selects_ofTagCode (code : Nat) : Statements.selects code (Instr.ofTagCode (BitVec.ofNat 5 code)) := by
  intro b0 P hlo hhi
  rw [decode_cons_bytes, tagCode_eq_ofNat, show b0.toNat / 8 = code by omega]
  rfl

/-- The row of a tag code yields what the classification of that code alone decides (R125, R126). -/
theorem yields_ofTagCode (code : BitVec 5) (x : F64 → F64 → Nat → Payload → Result)
    (hx : ∀ gs acs n P, entryResult code P gs acs n = x gs acs n P) :
    Statements.yields (Instr.ofTagCode code) x := by
  intro rsv P s gs acs hp
  rw [exec_eq, ofTagCode_tagCode, ofTagCode_payload, completeEntry_wait code P s gs acs hp, hx]
  rfl

theorem entryResult_other (code : BitVec 5) (P : Payload) (gs acs : F64) (n : Nat) (hmin : 3 ≤ code.toNat)
    (hmax : code.toNat ≤ 25) : entryResult code P gs acs n = .ok (.other code P) := by
  simp only [entryResult, classify_other code hmin hmax]

theorem entryResult_invalid (code : BitVec 5) (P : Payload) (gs acs : F64) (n : Nat) (h : 26 ≤ code.toNat) :
    entryResult code P gs acs n = .err .invalidTag := by
  simp only [entryResult, classify_invalidTag code h]

/-- The row of a code from 3 to 25 passes the code and the payload through (R130). -/
theorem passThrough_ofTagCode (code : Nat) (hmin : 3 ≤ code) (hmax : code ≤ 25) :
    Statements.passThrough code (Instr.ofTagCode (BitVec.ofNat 5 code)) := by
  have hcode : (BitVec.ofNat 5 code).toNat = code := Nat.mod_eq_of_lt (by omega)
  exact ⟨selects_ofTagCode code, yields_ofTagCode _ _ fun gs acs n P =>
    entryResult_other _ P gs acs n (by omega) (by omega)⟩

/-- The row of a code from 26 to 31 ends with the error (R131). -/
theorem rejected_ofTagCode (code : Nat) (hmin : 26 ≤ code) (hmax : code ≤ 31) :
    Statements.rejected code (Instr.ofTagCode (BitVec.ofNat 5 code)) := by
  have hcode : (BitVec.ofNat 5 code).toNat = code := Nat.mod_eq_of_lt (by omega)
  exact ⟨selects_ofTagCode code, yields_ofTagCode _ _ fun gs acs n P => entryResult_invalid _ P gs acs n (by omega)⟩

/-- Settles O19: code 0 is classified as empty. -/
theorem emptyCompletes : Obligations.EmptyCompletes :=
  ⟨selects_ofTagCode 0, yields_ofTagCode 0 _ fun _ _ _ _ => rfl⟩

/-- Settles O20: code 1 is classified as a gyroscope entry, decoded with the first scale. -/
theorem gyroCompletes : Obligations.GyroCompletes :=
  ⟨selects_ofTagCode 1, yields_ofTagCode 1 _ fun _ _ _ _ => rfl⟩

/-- Settles O21: code 2 is classified as an accelerometer entry, decoded with the second scale. -/
theorem accelCompletes : Obligations.AccelCompletes :=
  ⟨selects_ofTagCode 2, yields_ofTagCode 2 _ fun _ _ _ _ => rfl⟩

/-- Settles O22: each row is the one of its code, and each code lies from 3 to 25. -/
theorem otherCompletes : Obligations.OtherCompletes := by
  unfold Obligations.OtherCompletes
  with_reducible and_intros
  all_goals exact passThrough_ofTagCode _ (by omega) (by omega)

/-- Settles O23: each row is the one of its code, and each code lies from 26 to 31. -/
theorem invalidCompletes : Obligations.InvalidCompletes := by
  unfold Obligations.InvalidCompletes
  with_reducible and_intros
  all_goals exact rejected_ofTagCode _ (by omega) (by omega)

/-! ### One step -/

theorem step_cmd_idle (s : State) (gs acs : F64) (es : List Event) (hp : s.phase = .idle)
    (he : s.events = .cmd gs acs :: es) : step s = .next (issue gs acs (s.continueWith es)) := by
  rw [step_cons s _ es he, takeEvent, offerCommand_idle (s.continueWith es) gs acs hp]

/-- Settles O25: a command in IDLE is issued, with `request`. -/
theorem issueSendsTheRequest : Obligations.IssueSendsTheRequest := step_cmd_idle

/-- Settles O26: a command in WAIT is not accepted. -/
theorem commandDuringOperationHasNoEffect : Obligations.CommandDuringOperationHasNoEffect := by
  intro s gs acs g a es hp he
  rw [step_cons s _ es he, takeEvent, offerCommand_wait (s.continueWith es) gs acs g a hp]
  rfl

/-- In WAIT an entry that decodes is run, with the response recorded. -/
theorem respond_instr (bs : List Byte) (i : Instr) (s : State) (gs acs : F64) (hp : s.phase = .wait gs acs)
    (hd : decode bs = .instr i) : respond (.ok bs) s = exec i (s.observe (.rsp (.ok bs))) := by
  simp only [respond, hp, hd]

/-- Settles O24: the response is the next event, and its bytes decode. -/
theorem stepRunsDecodedEntry : Obligations.StepRunsDecodedEntry := by
  intro s gs acs bs es i hp he hd
  rw [step_cons s _ es he, takeEvent, respond_instr bs i (s.continueWith es) gs acs hp hd]
  rfl

/-- Settles O27: the result of an error is that error. -/
theorem transportErrorVerbatim : Obligations.TransportErrorVerbatim :=
  fun s gs acs e es hp he => step_rsp_wait s gs acs (.err e) es _ hp he rfl

theorem dropLate_zero (r : Response) (s : State) (h : s.abandoned = 0) : dropLate r s = .refused .noAbandonedRequest := by
  simp only [dropLate, h]

theorem dropLate_pos (r : Response) (s : State) (h : 0 < s.abandoned) :
    dropLate r s = .next { s with abandoned := s.abandoned - 1, trace := .late r :: s.trace } := by
  obtain ⟨k, hk⟩ := Nat.exists_eq_succ_of_ne_zero h.ne'
  simp only [dropLate, hk, Nat.succ_eq_add_one, Nat.add_sub_cancel]

/-- Settles O31: the late answer is dropped, whatever the phase. -/
theorem lateAnswerIsDropped : Obligations.LateAnswerIsDropped := by
  intro s r es hpos he
  rw [step_cons s _ es he, takeEvent, dropLate_pos r (s.continueWith es) hpos]
  rfl

theorem foreignAccess_wait (s : State) (gs acs : F64) (h : s.phase = .wait gs acs) :
    foreignAccess s = .refused .foreignAccess := by
  simp only [foreignAccess, h]

/-- Settles O29: each of the four is refused by the operation that its event calls. -/
theorem impossibleEventsRefused : Obligations.ImpossibleEventsRefused := by
  refine fun s es => ⟨fun i hp => ?_, fun r hp he => ?_, fun r hk he => ?_, fun gs acs hp he => ?_⟩
  · rw [exec_eq, completeEntry_idle _ _ s hp]
  · rw [step_cons s _ es he, takeEvent, respond_idle r (s.continueWith es) hp]
  · rw [step_cons s _ es he, takeEvent, dropLate_zero r (s.continueWith es) hk]
  · rw [step_cons s _ es he, takeEvent, foreignAccess_wait (s.continueWith es) gs acs hp]

/-- Settles O36: the command is issued, and its response ends the operation with the result that R132 gives to it. -/
theorem popDeliversPopResult : Obligations.PopDeliversPopResult := by
  intro s gs acs r es x hp he hx
  have hissue := step_cmd_idle s gs acs _ hp he
  have hcomplete := step_rsp_wait (issue gs acs (s.continueWith (.rsp r :: es))) gs acs r es x rfl rfl hx
  rw [runSteps_succ 1 _ _ hissue, runSteps_succ 0 _ _ hcomplete, hp]
  rfl

/-! ### Admissible scripts -/

/-- What a step on an admissible script does to the phase and the counts when it takes the event `e`. -/
structure CountedStep (s : State) (e : Event) (s' : State) : Prop where
  waiting : s'.phase.waiting = waitingAfter s.phase.waiting e
  response_waited : isResponse e = true → s.phase.waiting = true
  requests : (requestsOf s'.trace).length = (requestsOf s.trace).length + (isCommand e && !s.phase.waiting).toNat
  results : (resultsOf s'.trace).length = (resultsOf s.trace).length + (isResponse e).toNat
  abandoned : s'.abandoned + (isLate e).toNat = s.abandoned + (e == .reset && s.phase.waiting).toNat

/-- Counted steps, one for each event of a list. -/
inductive CountedRun : State → List Event → State → Prop
  | nil (s : State) : CountedRun s [] s
  | cons {s s' t : State} {e : Event} {es : List Event} (first : CountedStep s e s') (rest : CountedRun s' es t) :
      CountedRun s (e :: es) t

/-- An admissible script has a response only where a request is outstanding. -/
theorem waiting_of_admissible_response (w : Bool) (k : Nat) (e : Event) (es : List Event)
    (h : admissible w k (e :: es) = true) (hr : isResponse e = true) : w = true := by
  cases e with
  | rsp r =>
    rw [admissible_rsp, Bool.and_eq_true, Bool.and_eq_true] at h
    obtain ⟨⟨hw, -⟩, -⟩ := h
    exact hw
  | _ => cases hr

/-- An admissible script runs to its end in counted steps (R158). -/
theorem exists_countedRun (es : List Event) (s : State) (he : s.events = es)
    (h : admissible s.phase.waiting s.abandoned es = true) :
    ∃ t, runSteps es.length s = .next t ∧ t.events = [] ∧ CountedRun s es t := by
  induction es generalizing s with
  | nil => exact ⟨s, rfl, he, .nil s⟩
  | cons e es ih =>
    obtain ⟨s', hstep, hevents, hwaiting, hadm, hreq, hres, hab⟩ := step_of_admissible s e es he h
    obtain ⟨t, hrun, hend, hcounted⟩ := ih s' hevents hadm
    exact ⟨t, (runSteps_succ _ s s' hstep).trans hrun, hend,
      .cons ⟨hwaiting, waiting_of_admissible_response _ _ e es h, hreq, hres, hab⟩ hcounted⟩

theorem length_filter_cons (p : Event → Bool) (e : Event) (es : List Event) :
    ((e :: es).filter p).length = (es.filter p).length + (p e).toNat := by
  cases h : p e <;> simp [h]

/-- The requests of a state that are accounted for: with a result, abandoned and unanswered, or in progress. -/
def State.accounted (s : State) : Nat := (resultsOf s.trace).length + s.abandoned + s.phase.waiting.toNat

/-- An operation begins with an accepted command and ends with a response or a reset (R134, R170). -/
theorem operation_balance (w : Bool) (e : Event) (hr : isResponse e = true → w = true) :
    (isCommand e && !w).toNat + w.toNat =
      (isResponse e).toNat + (e == .reset && w).toNat + (waitingAfter w e).toNat := by
  cases e with
  | rsp r =>
    rw [hr rfl]
    rfl
  | _ => cases w <;> rfl

/-- A step accounts for the request it sends, and a late answer takes an abandoned one out of the account. -/
theorem CountedStep.balance {s s' : State} {e : Event} (h : CountedStep s e s') :
    (requestsOf s'.trace).length + s.accounted = (requestsOf s.trace).length + s'.accounted + (isLate e).toNat := by
  have hoperation := operation_balance s.phase.waiting e h.response_waited
  rw [← h.waiting] at hoperation
  have hreq := h.requests
  have hres := h.results
  have hab := h.abandoned
  rw [State.accounted, State.accounted]
  omega

namespace CountedRun

variable {s t : State} {es : List Event}

theorem results (h : CountedRun s es t) :
    (resultsOf t.trace).length = (resultsOf s.trace).length + (es.filter isResponse).length := by
  induction h with
  | nil s => rfl
  | cons first _ ih => rw [ih, first.results, length_filter_cons]; omega

theorem transportAnswers_eq (h : CountedRun s es t) : transportAnswers s.phase.waiting es = !t.phase.waiting := by
  induction h with
  | nil s => rfl
  | cons first _ ih => rw [transportAnswers, ← first.waiting, ih]

/-- Under OnePopAtATime every command sends one request (R120, R174). -/
theorem requests (h : CountedRun s es t) (hone : onePopAtATime s.phase.waiting es = true) :
    (requestsOf t.trace).length = (requestsOf s.trace).length + (es.filter isCommand).length := by
  induction h with
  | nil s => rfl
  | @cons s s' t e es first _ ih =>
    rw [onePopAtATime, ← first.waiting, Bool.and_eq_true] at hone
    obtain ⟨hfirst, hrest⟩ := hone
    have hsent : (isCommand e && !s.phase.waiting) = isCommand e := by
      cases hc : isCommand e with
      | false => rfl
      | true => simpa [hc] using hfirst
    rw [ih hrest, first.requests, length_filter_cons, hsent]
    omega

theorem balance (h : CountedRun s es t) :
    (requestsOf t.trace).length + s.accounted =
      (requestsOf s.trace).length + t.accounted + (es.filter isLate).length := by
  induction h with
  | nil s => rfl
  | cons first _ ih =>
    have := first.balance
    rw [length_filter_cons]
    omega

/-- Without a reset no request is abandoned, so a late answer takes one of those there were. -/
theorem abandoned_of_no_reset (h : CountedRun s es t) (hno : ∀ e ∈ es, e ≠ .reset) :
    t.abandoned + (es.filter isLate).length = s.abandoned := by
  induction h with
  | nil s => rfl
  | @cons s s' t e es first _ ih =>
    obtain ⟨he, hes⟩ := List.forall_mem_cons.mp hno
    have hab := first.abandoned
    rw [beq_false_of_ne he, Bool.false_and, Bool.toNat_false, Nat.add_zero] at hab
    rw [length_filter_cons, ← hab, ← ih hes]
    omega

end CountedRun

/-- Settles O37, by induction on the script: each event of an admissible one is taken by a step. -/
theorem admissibleScriptsRunToTheEnd : Obligations.AdmissibleScriptsRunToTheEnd := by
  intro s h
  obtain ⟨t, hrun, hend, hcounted⟩ := exists_countedRun s.events s rfl h
  exact ⟨t, hrun, hend, hcounted.results⟩

theorem not_waiting_iff (p : Phase) : (!p.waiting) = true ↔ p = .idle := by
  cases p <;> simp [Phase.waiting]

/-- Settles O45: TransportAnswers computes the phase at the end of the script. -/
theorem popsEndIfTransportAnswers : Obligations.PopsEndIfTransportAnswers := by
  intro s h
  obtain ⟨t, hrun, hend, hcounted⟩ := exists_countedRun s.events s rfl h
  refine ⟨t, hrun, hend, ?_⟩
  rw [hcounted.transportAnswers_eq, not_waiting_iff]

/-- Settles O46: every command sends a request, and at the end no request is in progress, so each has its result or was
abandoned. -/
theorem commandsMatchResults : Obligations.CommandsMatchResults := by
  intro s ⟨hp, hk, htrace⟩ hadm hone
  have hw : s.phase.waiting = false := by rw [hp]; rfl
  obtain ⟨t, hrun, hend, hcounted⟩ := exists_countedRun s.events s rfl (by rwa [hw, hk])
  have hnoRequests : (requestsOf s.trace).length = 0 := by rw [htrace]; rfl
  have hnoneAccounted : s.accounted = 0 := by rw [State.accounted, htrace, hk, hw]; rfl
  have hreq := hcounted.requests (by rwa [hw])
  rw [hnoRequests, Nat.zero_add] at hreq
  refine ⟨t, hrun, hend, hreq, fun hans => ?_⟩
  have htw : t.phase.waiting = false := by
    rw [← hw, hcounted.transportAnswers_eq] at hans
    simpa using hans
  have hbalance := hcounted.balance
  rw [hreq, hnoRequests, hnoneAccounted, State.accounted, htw, Bool.toNat_false] at hbalance
  refine ⟨by omega, fun hno => ?_⟩
  have := hcounted.abandoned_of_no_reset hno
  omega

end Sys2Proof.Machine
end

section
/-! Proofs about reset and about WAIT: what a reset does in each phase, and what can end an operation. -/

namespace Sys2Proof.Machine

/-! ### Reset in each phase -/

theorem step_reset (s : State) (es : List Event) (he : s.events = .reset :: es) :
    step s = .next (hardReset (s.continueWith es)) := step_cons s .reset es he

/-- Settles O30: a reset is recorded, and in WAIT it also abandons the request. -/
theorem resetAbandonsOperation : Obligations.ResetAbandonsOperation := by
  refine fun s es he => ⟨fun hp => ?_, fun gs acs hp => ?_⟩
  · rw [step_reset s es he, hardReset_idle (s.continueWith es) hp]
    rfl
  · rw [step_reset s es he, hardReset_wait (s.continueWith es) gs acs hp]
    rfl

/-! ### WAIT -/

/-- The part of a state that only a response or a reset may change in WAIT: the phase and the results so far. -/
def State.waitsAs (s t : State) : Prop := t.phase = s.phase ∧ resultsOf t.trace = resultsOf s.trace

/-- All that a step from WAIT can do: nothing is scripted, or an event that ends the wait is taken, or another event is, which
leaves the block waiting. -/
theorem step_wait_cases (s s' : State) (gs acs : F64) (hp : s.phase = .wait gs acs) (h : step s = .next s') :
    (s.events = [] ∧ s' = s) ∨
    (∃ e es, s.events = e :: es ∧ endsWait e = true) ∨
    (∃ e, s.events = e :: s'.events ∧ s.waitsAs s') := by
  obtain ⟨he, rfl⟩ | ⟨e, es, he, ht⟩ := step_next s s' h
  · exact .inl ⟨he, rfl⟩
  · obtain ⟨_, _, -, hidle, -⟩ | ⟨_, _, _, _, -, -, rfl⟩ | ⟨r, _, _, _, rfl, -, -, -⟩ | ⟨r, k, -, -, rfl⟩ |
      ⟨rfl, -⟩ | ⟨-, hidle, -⟩ := takeEvent_cases e _ s' ht
    · simp [hp] at hidle
    · exact .inr (.inr ⟨e, he, rfl, rfl⟩)
    · exact .inr (.inl ⟨_, es, he, rfl⟩)
    · exact .inr (.inr ⟨e, he, rfl, rfl⟩)
    · exact .inr (.inl ⟨_, es, he, rfl⟩)
    · simp [hp] at hidle

/-- A step from WAIT on a script without responses and resets leaves the block waiting and such a script. -/
theorem step_wait_without_end (s s' : State) (gs acs : F64) (hp : s.phase = .wait gs acs)
    (hw : ∀ e ∈ s.events, ¬ endsWait e) (h : step s = .next s') : s.waitsAs s' ∧ ∀ e ∈ s'.events, ¬ endsWait e := by
  obtain ⟨-, rfl⟩ | ⟨e, es, he, hend⟩ | ⟨e, he, hwait⟩ := step_wait_cases s s' gs acs hp h
  · exact ⟨⟨rfl, rfl⟩, hw⟩
  · exact absurd hend (hw e (by simp [he]))
  · exact ⟨hwait, fun f hf => hw f (by simp [he, hf])⟩

theorem runSteps_wait_without_end (n : Nat) (s t : State) (gs acs : F64) (hp : s.phase = .wait gs acs)
    (hw : ∀ e ∈ s.events, ¬ endsWait e) (h : runSteps n s = .next t) :
    t.phase = .wait gs acs ∧ resultsOf t.trace = resultsOf s.trace := by
  induction n generalizing s with
  | zero =>
    cases h
    exact ⟨hp, rfl⟩
  | succ n ih =>
    obtain ⟨s', hs, hrun⟩ := runSteps_succ_next n s t h
    obtain ⟨⟨hphase, hres⟩, hw'⟩ := step_wait_without_end s s' gs acs hp hw hs
    obtain ⟨hpt, hrest⟩ := ih s' (hphase.trans hp) hw' hrun
    exact ⟨hpt, hrest.trans hres⟩

/-- Settles O32, by the cases of a step from WAIT and, for a run, by induction on its length. -/
theorem waitHasNoEscape : Obligations.WaitHasNoEscape := by
  refine ⟨fun s _ _ _ he => step_nil s he, fun s s' gs acs hp h hne => ?_, runSteps_wait_without_end⟩
  obtain ⟨-, rfl⟩ | hend | ⟨e, -, hphase, -⟩ := step_wait_cases s s' gs acs hp h
  · exact absurd hp hne
  · exact hend
  · exact absurd (hphase.trans hp) hne

end Sys2Proof.Machine
end
